-- ==== Sys2Proof/Word.lean ====
section
/-! DEFINITION. The word types of the block: bytes, 16-bit and 32-bit words, and spans (00_scope R10, R11). -/

namespace Sys2Proof

/-- `u8`: one byte (00_scope R10). -/
abbrev Byte := BitVec 8

/-- `u16`, and the bit pattern of an `i16`: 16 bits (00_scope R10). As an `i16` it is read by
`BitVec.toInt` (two's complement; PRESUMED by the spec itself, log 10). -/
abbrev Half := BitVec 16

/-- `u32`, and the bit pattern of an `i32`: 32 bits (00_scope R10; log 10). -/
abbrev Word := BitVec 32

/-- A span: a finite sequence of bytes in transmission order, byte 0 first on the wire
(00_scope R11, 20_memory R42). -/
abbrev Span := List Byte

end Sys2Proof
end

