-- ==== Sys2Proof/Config.lean ====
section
/-! DEFINITION. What an implementation fixes (the parameters of 00_scope R8) and the free values
(what the spec leaves at `any value`, 93_implementation_defined section 1). -/

namespace Sys2Proof

/-- The wire profile: 0 = Profile A, 1 = Profile B (10_state R24, 30_encoding R61). -/
inductive Profile where
  | A
  | B
deriving DecidableEq, Repr

/-- The parameters of the block (00_scope R8). Constant while the machine runs; a model "takes each
one as an argument", so they stand in `State` and a statement about all states is about all of them
(log 1). -/
structure Params where
  /-- `CAP`: capacity of one accumulation buffer, in bytes. -/
  cap : Nat
  /-- `NUM_INST`: number of reassembler instances. -/
  numInst : Nat
  /-- `PROFILE_POR`: the profile an instance holds after power-on. -/
  profilePor : Profile
deriving DecidableEq, Repr

/-- The constraints of 00_scope R8: 260 ≤ CAP ≤ 65535 and NUM_INST ≥ 1. -/
def Params.legal (p : Params) : Bool :=
  decide (260 ≤ p.cap) && decide (p.cap ≤ 65535) && decide (1 ≤ p.numInst)

namespace Config

/-- DESIGN CHOICE (log 1): the parameter values of `State.reset`. The spec leaves all three OPEN; 512 is
the CAP of its test vectors, two instances are what its program P4 uses, and A is what P3 starts from. -/
def reference : Params := { cap := 512, numInst := 2, profilePor := .A }

/-- `MAX_CH`: capacity of the channel array (00_scope R8). -/
abbrev maxCh : Nat := 8

/-- `MAX_PARAM`: capacity of the params array (00_scope R8). -/
abbrev maxParam : Nat := 32

/-- `MAX_RAW`: capacity of the raw payload (00_scope R8, D15). -/
abbrev maxRaw : Nat := 254

/-- The FREE VALUE of 41_encoder R106: what byte `i` of OUT holds after the failed encode whose draw
number is `draw` ("a model treats it as any value"). It has no body, so no proof can see it (log 6). -/
opaque freeOutByte (draw i : Nat) : Byte

end Config

end Sys2Proof
end

