-- ==== Sys2Proof/Machine/Operands.lean ====
section
/-! DEFINITION. Operand and field assembly: how bytes become multi-byte values and back
(00_scope R11, R12; 30_encoding R78; 20_memory R43 to R47). -/

namespace Sys2Proof.Machine

/-- `header(prof)[0]`: 0xAA in both profiles (30_encoding R61, 20_memory R45; log 14). -/
def headerByte1 : Profile → Byte
  | .A => 0xAA#8
  | .B => 0xAA#8

/-- `header(prof)[1]`: 0x55 in both profiles (30_encoding R61, 20_memory R45; log 14). -/
def headerByte2 : Profile → Byte
  | .A => 0x55#8
  | .B => 0x55#8

/-- `header(prof)` (41_encoder R100). -/
def header (prof : Profile) : Span := [headerByte1 prof, headerByte2 prof]

/-- Two bytes, low byte first, as a u16: `lo | hi << 8` (00_scope R11, 20_memory R43). -/
def le16 (lo hi : Byte) : Half := lo.setWidth 16 ||| (hi.setWidth 16 <<< 8)

/-- Four bytes, low byte first, as a u32 (00_scope R11, 20_memory R43). -/
def le32 (b0 b1 b2 b3 : Byte) : Word :=
  b0.setWidth 32 ||| (b1.setWidth 32 <<< 8) ||| (b2.setWidth 32 <<< 16) ||| (b3.setWidth 32 <<< 24)

/-- `bytesLE16(v) = [v[7:0], v[15:8]]` (00_scope R11). -/
def bytesLE16 (v : Half) : Span := [v.extractLsb' 0 8, v.extractLsb' 8 8]

/-- `bytesLE32(v) = [v[7:0], v[15:8], v[23:16], v[31:24]]` (00_scope R11). -/
def bytesLE32 (v : Word) : Span :=
  [v.extractLsb' 0 8, v.extractLsb' 8 8, v.extractLsb' 16 8, v.extractLsb' 24 8]

/-- `MemRead(S, i, n) = S[i..i+n)`, defined only when i + n ≤ |S| (00_scope R12). -/
def memRead (S : Span) (i n : Nat) : Option Span :=
  if i + n ≤ S.length then some ((S.drop i).take n) else none

/-- `LE16(S, i)` on a span, defined only inside it (00_scope R11, R12). -/
def le16At (S : Span) (i : Nat) : Option Half :=
  match S[i]?, S[i + 1]? with
  | some lo, some hi => some (le16 lo hi)
  | _, _ => none

/-- `g(j)`: payload byte j, and 0 past the end of the payload (42_decoder R132). -/
def g (P : Span) (j : Nat) : Byte := P.getD j 0#8

/-- A payload length or count as a u8 field. -/
def u8 (n : Nat) : Byte := BitVec.ofNat 8 n

end Sys2Proof.Machine
end

