-- ==== Sys2Proof/Syntax.lean ====
section
/-! DEFINITION. The instructions: one constructor for every row of spec/opcode_table.json, the operand
records of the commands (10_state R29, 30_encoding R77) and the forms in which a request reaches the block. -/

namespace Sys2Proof

/-- RC input record (10_state R29). Only `channels[0..channelCount)` are encoded. -/
structure RcInput where
  channelCount : Byte
  channels : Vector Half Config.maxCh
deriving DecidableEq, Repr

/-- TLM record: the encode input (10_state R29) and the decoded variant (10_state R28) have the same
fields. `roll`, `pitch`, `yaw` are the bit patterns of an i16 and `altitudeCm` of an i32 (log 10). -/
structure Tlm where
  voltageMv : Half
  currentMa : Half
  roll : Half
  pitch : Half
  yaw : Half
  altitudeCm : Word
deriving DecidableEq, Repr

/-- EXT input record (10_state R29). Only `params[0..paramLen)` are encoded. -/
structure ExtInput where
  cmdId : Byte
  paramLen : Byte
  params : Vector Byte Config.maxParam
deriving DecidableEq, Repr

/-- The destination operands of an encode (30_encoding R77): `cap` is `out_cap`, and `base` is the place
the platform gives OUT in the store of destination buffers, so that `OUT[i]` stands at `base + i`
(20_memory R40(b), R41; log 5). -/
structure Dest where
  base : Nat
  cap : Nat
deriving DecidableEq, Repr

/-- The fields of one structurally complete frame of the wire format (30_encoding R60) beside its header
and its type byte: the length byte L, the L - 1 payload bytes and the received CRC (low byte first). -/
structure FrameFields where
  len : Byte
  payload : Span
  rxCrc : Half
deriving DecidableEq, Repr

/-- One constructor per row of spec/opcode_table.json. The first ten are the CMD rows (30_encoding R75,
R76), the last seven the FRAME rows (30_encoding R80, R81): the decoder's dispatch cases (log 3). -/
inductive Instr where
  /-- 0x01, 40_crc R90. -/
  | crc16 (S : Span)
  /-- 0x10, 41_encoder R102. -/
  | encRc (prof : Profile) (input : RcInput) (out : Dest)
  /-- 0x11, 41_encoder R103. -/
  | encTlm (prof : Profile) (input : Tlm) (out : Dest)
  /-- 0x12, 41_encoder R104. -/
  | encHb (prof : Profile) (deviceStatus : Byte) (out : Dest)
  /-- 0x13, 41_encoder R105. -/
  | encExt (prof : Profile) (input : ExtInput) (out : Dest)
  /-- 0x20, 42_decoder R130. -/
  | decode (prof : Profile) (S : Span)
  /-- 0x30, 43_reassembler R160. -/
  | feed (k : Nat) (S : Span)
  /-- 0x40, 44_control R180. -/
  | reset (k : Nat) (prof : Profile)
  /-- 0x41, 44_control R182. -/
  | rdstat (k : Nat)
  /-- Every other opcode, 30_encoding R76, 44_control R183. -/
  | illegal (op : Byte)
  /-- `AA 55 00 xx`: a header with length byte 0 (30_encoding R73, R81). -/
  | invalidLen0
  /-- `AA 55 LL 01`, 42_decoder R133. -/
  | frameRc (f : FrameFields)
  /-- `AA 55 LL 02`, 42_decoder R134. -/
  | frameTlm (f : FrameFields)
  /-- `AA 55 LL 03`, 42_decoder R135. -/
  | frameHb (f : FrameFields)
  /-- `AA 55 LL 04`, 42_decoder R136. -/
  | frameExt (f : FrameFields)
  /-- `AA 55 LL TT`, TT not in 01 to 04, 42_decoder R137. -/
  | frameRaw (t : Byte) (f : FrameFields)
  /-- The first two bytes are not `AA 55` (42_decoder R130 step 2). -/
  | badSync (b0 b1 : Byte)
deriving DecidableEq, Repr

/-- The operands of a command, "passed as typed values beside the opcode" (30_encoding R75): one field for
each operand name of R77. A command reads only the fields R77 lists for its opcode (log 2). -/
structure Operands where
  k : Nat
  prof : Profile
  S : Span
  rc : RcInput
  tlm : Tlm
  deviceStatus : Byte
  ext : ExtInput
  out : Dest
deriving DecidableEq, Repr

/-- All operands zero, spans empty, profile A (= 0). -/
def Operands.zero : Operands where
  k := 0
  prof := .A
  S := []
  rc := { channelCount := 0#8, channels := Vector.replicate Config.maxCh 0#16 }
  tlm := { voltageMv := 0#16, currentMa := 0#16, roll := 0#16, pitch := 0#16, yaw := 0#16, altitudeCm := 0#32 }
  deviceStatus := 0#8
  ext := { cmdId := 0#8, paramLen := 0#8, params := Vector.replicate Config.maxParam 0#8 }
  out := { base := 0, cap := 0 }

/-- What the block is asked to do next. -/
inductive Request where
  /-- A command of the host: an 8-bit opcode and its operands (30_encoding R75). -/
  | command (op : Byte) (a : Operands)
  /-- A span at the decoder's input, whose first bytes select a FRAME row (30_encoding R80; log 3). -/
  | span (prof : Profile) (S : Span)
deriving DecidableEq, Repr

/-- The instance an instruction names, if it names one: FEED, RESET and RDSTAT do (30_encoding R77). -/
def Instr.namedInst : Instr → Option Nat
  | .feed k _ => some k
  | .reset k _ => some k
  | .rdstat k => some k
  | .crc16 _ => none
  | .encRc _ _ _ => none
  | .encTlm _ _ _ => none
  | .encHb _ _ _ => none
  | .encExt _ _ _ => none
  | .decode _ _ => none
  | .illegal _ => none
  | .invalidLen0 => none
  | .frameRc _ => none
  | .frameTlm _ => none
  | .frameHb _ => none
  | .frameExt _ => none
  | .frameRaw _ _ => none
  | .badSync _ _ => none

end Sys2Proof
end

