-- ==== Sys2Proof/Machine/State.lean ====
section
/-! DEFINITION. The state of the block and of its interface as plain data, the results of a command, the
reasons a step can stop, and the state after reset (10_state, 60_exceptions R200, 70_reset_and_hazards R230). -/

namespace Sys2Proof.Machine

/-- A byte store: (index, byte) cells with strictly rising indexes. An index that is not listed holds no
value (10_state R34, 20_memory R40; log 5 and log 8). -/
abbrev Memory := List Host.Cell

/-- One reassembler instance (10_state R20). -/
structure Instance where
  /-- `PROFILE_k` (10_state R24). -/
  profile : Profile
  /-- `BUF_k`: the cells that hold a value; between operations exactly `BUF[0..LEN)` (10_state R21, R34). -/
  buf : Memory
  /-- `LEN_k` (10_state R22). -/
  len : Nat
  /-- `DEAD_k` (10_state R23). -/
  dead : Bool
deriving DecidableEq, Repr

/-- RC payload variant (10_state R28). -/
structure RcPayload where
  channelCount : Byte
  channels : Vector Half Config.maxCh
deriving DecidableEq, Repr

/-- EXT payload variant (10_state R28). -/
structure ExtPayload where
  cmdId : Byte
  paramLen : Byte
  params : Vector Byte Config.maxParam
deriving DecidableEq, Repr

/-- RAW payload variant (10_state R28). -/
structure RawPayload where
  rawLen : Byte
  raw : Vector Byte Config.maxRaw
deriving DecidableEq, Repr

/-- The payload of a ParsedFrame; the constructor is its `kind` (10_state R27, R28). -/
inductive Payload where
  | rc (p : RcPayload)
  | tlm (p : Tlm)
  | hb (deviceStatus : Byte)
  | ext (p : ExtPayload)
  | raw (p : RawPayload)
deriving DecidableEq, Repr

/-- ParsedFrame (10_state R27). -/
structure ParsedFrame where
  frameType : Byte
  crcOk : Bool
  payload : Payload
deriving DecidableEq, Repr

/-- The status codes (60_exceptions R200). -/
inductive Status where
  | ok
  | incomplete
  | invalidHeader
  | invalidChannelCount
  | bufferTooSmall
  | bufferOverflow
  | illegalCommand
deriving DecidableEq, Repr

/-- The results of a command beside its status (30_encoding R77). -/
inductive Results where
  /-- Status only. -/
  | nothing
  /-- CRC16's `crc`. -/
  | crc (c : Half)
  /-- An encode's `frame_len`. -/
  | frameLen (n : Nat)
  /-- DECODE's `frame` and `consumed`. -/
  | decoded (frame : ParsedFrame) (consumed : Nat)
  /-- FEED's ordered list `frames`. -/
  | frames (fs : List ParsedFrame)
  /-- RDSTAT's `stat`. -/
  | stat (w : Word)
deriving DecidableEq, Repr

/-- What a command returns: exactly one status, and its results (60_exceptions R200, 30_encoding R77). -/
structure Reply where
  status : Status
  results : Results
deriving DecidableEq, Repr

/-- Under which conditions the host issues a request (log 4): the instances that have a command in flight
(70_reset_and_hazards R233) and the instances whose FEED frames it is handling (R234). -/
structure Context where
  inFlight : List Nat
  handling : List Nat
deriving DecidableEq, Repr

/-- A request as issued. -/
structure Issue where
  ctx : Context
  request : Request
deriving DecidableEq, Repr

/-- The machine. `insts` is the block's whole persistent state (10_state R20); `params` are its constant
parameters (00_scope R8); the other fields are the host's side of the interface and the model's counter. -/
structure State where
  /-- CAP, NUM_INST, PROFILE_POR (00_scope R8; log 1). -/
  params : Params
  /-- The instances 0 to NUM_INST-1, in order (10_state R20). -/
  insts : List Instance
  /-- The store of destination buffers OUT (20_memory R40(b); log 5). -/
  out : Memory
  /-- The requests the host has issued and the block has not yet executed, oldest first
  (20_memory R56; log 2). -/
  pending : List Issue
  /-- Status and results of the last command executed (log 7). -/
  reply : Option Reply
  /-- How many free values have been taken (log 6). -/
  draws : Nat
deriving DecidableEq, Repr

/-- Why the machine stops with an error. None is reached from a state that keeps the invariant of
Safety.lean; each stop is safe. -/
inductive Fault where
  /-- A read of a byte of BUF that holds no value (10_state R34). Raised by FEED's read of BUF[0..LEN). Safe. -/
  | bufferByteHasNoValue
  /-- A read outside a span (00_scope R12). Raised by DECODE, by FEED's loop and by a span at the decoder's
  input. Safe. -/
  | spanReadOutside
  /-- MemWrite outside OUT[0..out_cap), where it is not defined (00_scope R12). Raised by the four encodes. Safe. -/
  | destinationWriteOutside
deriving DecidableEq, Repr

/-- Why the model does not accept a request. -/
inductive Refusal where
  /-- An instruction without a meaning in this model. Raised by exec's refused arms only (there are none). Safe. -/
  | notModelled (mnemonic : String)
  /-- The instance number is outside 0 to NUM_INST-1: "The model refuses it" (30_encoding R77). Raised by FEED,
  RESET and RDSTAT. Safe. -/
  | noSuchInstance (k : Nat)
  /-- The instance has another command in flight: a model "refuses overlapping issue"
  (70_reset_and_hazards R233). Raised by step before FEED, RESET and RDSTAT. Safe. -/
  | overlappingIssue (k : Nat)
  /-- Issued while handling the frames of a FEED on the same instance: "A model refuses such a command"
  (70_reset_and_hazards R234). Raised by step before FEED, RESET and RDSTAT. Safe. -/
  | reentrantIssue (k : Nat)
deriving DecidableEq, Repr

/-- The state RESET(k, p) leaves instance k in: PROFILE = p, LEN = 0, DEAD = 0, BUF holds no value
(10_state R36, 44_control R180). -/
def Instance.fresh (prof : Profile) : Instance := { profile := prof, buf := [], len := 0, dead := false }

/-- Power-on of a block with parameters p: every instance is as RESET(k, PROFILE_POR) leaves it
(70_reset_and_hazards R230, R231). The interface is idle. -/
def State.powerOn (p : Params) : State where
  params := p
  insts := List.replicate p.numInst (Instance.fresh p.profilePor)
  out := []
  pending := []
  reply := none
  draws := 0

/-- The machine right after reset, at the reference parameters (log 1). -/
def State.reset : State := State.powerOn Config.reference

end Sys2Proof.Machine
end

