-- ==== Sys2Proof/Machine/Ops.lean ====
section
/-! DEFINITION. The named operations over memory, instances and replies. The block has no trap
(60_exceptions R204): returning a status, whatever it is, is the one operation `State.answer`. -/

namespace Sys2Proof.Machine

namespace Memory

/-- The byte at an index, if it holds a value. -/
def read : Memory → Nat → Option Byte
  | [], _ => none
  | (k, v) :: m, a => if k = a then some v else read m a

/-- Write one byte, keeping the indexes strictly rising. -/
def write : Memory → Nat → Byte → Memory
  | [], a, b => [(a, b)]
  | (k, v) :: m, a, b =>
    if a < k then (a, b) :: (k, v) :: m
    else if a = k then (a, b) :: m
    else (k, v) :: write m a b

/-- Write a span at consecutive indexes from a (byte accesses only, 20_memory R47). -/
def writeSpan : Memory → Nat → Span → Memory
  | m, _, [] => m
  | m, a, b :: S => writeSpan (write m a b) (a + 1) S

/-- Read n consecutive bytes from index a; none when one of them holds no value. -/
def readSpan : Memory → Nat → Nat → Option Span
  | _, _, 0 => some []
  | m, a, n + 1 =>
    match read m a, readSpan m (a + 1) n with
    | some b, some S => some (b :: S)
    | _, _ => none

/-- The store that holds a span at indexes 0 to |S|-1 and nothing else. -/
def ofSpan (S : Span) : Memory := writeSpan [] 0 S

/-- The canonical form: indexes strictly rising. (An unlisted index holds no value, so no listed byte
equals what an unlisted index reads as.) -/
def wf : Memory → Bool
  | [] => true
  | (k, _) :: m => m.all (fun c => decide (k < c.1)) && wf m

end Memory

/-- `BUF[0..LEN)`, the unconsumed bytes in stream order (10_state R21); none when one of them holds no
value (R34). -/
def Instance.held (inst : Instance) : Option Span := Memory.readSpan inst.buf 0 inst.len

/-- `BUF[i]`: bytes at or beyond LEN hold no value (10_state R34). -/
def Instance.bufByte (inst : Instance) (i : Nat) : Option Byte :=
  if i < inst.len then Memory.read inst.buf i else none

/-- Return a status and results to the host (00_scope R13). -/
def State.answer (s : State) (r : Reply) : State := { s with reply := some r }

/-- Replace the state of instance k; every other instance is untouched (10_state R37). -/
def State.setInst (s : State) (k : Nat) (inst : Instance) : State := { s with insts := s.insts.set k inst }

/-- `MemWrite(OUT, i, |v|, v)`, defined only when i + |v| ≤ out_cap (00_scope R12). -/
def memWrite (out : Memory) (d : Dest) (i : Nat) (v : Span) : Option Memory :=
  if i + v.length ≤ d.cap then some (Memory.writeSpan out (d.base + i) v) else none

/-- n free bytes of one draw (41_encoder R106; log 6). -/
def freeSpan (draw n : Nat) : Span := (List.range n).map (Config.freeOutByte draw)

/-- An encode that returns a status other than OK: every byte of OUT[0..out_cap) is any value, `frame_len`
has no value, nothing at or beyond out_cap is written and no instance changes (41_encoder R106,
20_memory R50, 60_exceptions R204). -/
def State.failEncode (s : State) (d : Dest) (st : Status) : State :=
  { s with
    out := Memory.writeSpan s.out d.base (freeSpan s.draws d.cap)
    draws := s.draws + 1
    reply := some { status := st, results := .nothing } }

/-- Run a command of instance k, which must exist (30_encoding R77: "The model refuses it"). -/
def State.onInst (s : State) (k : Nat) (f : Instance → Host.Outcome State Fault Refusal) :
    Host.Outcome State Fault Refusal :=
  match s.insts[k]? with
  | some inst => f inst
  | none => .refused (.noSuchInstance k)

end Sys2Proof.Machine
end

