-- ==== Sys2Proof/Machine/Flags.lean ====
section
/-! DEFINITION. The block's two flags, crc_ok and DEAD (10_state R32), the status word STAT (R33) and the
status codes (60_exceptions R200). -/

namespace Sys2Proof.Machine

/-- `crc_ok` of a structurally complete frame of type t: the CRC of [length, type] ++ payload against the
received CRC (42_decoder R131, 30_encoding R64). -/
def crcOk (t : Byte) (f : FrameFields) : Bool := crc16 ([f.len, t] ++ f.payload) == f.rxCrc

/-- The overflow test of FEED, which sets DEAD: `LEN + |S| > CAP` (43_reassembler R161). -/
def overflows (cap : Nat) (inst : Instance) (S : Span) : Bool := decide (cap < inst.len + S.length)

/-- PROFILE as its bit: 0 = A, 1 = B (10_state R24). -/
def profileBit : Profile → Word
  | .A => 0#32
  | .B => 1#32

/-- DEAD as its bit. -/
def deadBit (d : Bool) : Word := if d then 1#32 else 0#32

/-- STAT: LEN in [15:0], DEAD in [16], PROFILE in [17], 0 in [31:18] (10_state R33, 44_control R182). -/
def statWord (inst : Instance) : Word :=
  (BitVec.ofNat 16 inst.len).setWidth 32 ||| (deadBit inst.dead <<< 16) ||| (profileBit inst.profile <<< 17)

/-- The numeric code of a status (60_exceptions R200). -/
def statusCode : Status → Byte
  | .ok => 0x00#8
  | .incomplete => 0x01#8
  | .invalidHeader => 0x02#8
  | .invalidChannelCount => 0x03#8
  | .bufferTooSmall => 0x04#8
  | .bufferOverflow => 0x05#8
  | .illegalCommand => 0x06#8

end Sys2Proof.Machine
end

