-- ==== Sys2Proof/Machine/Control.lean ====
section
/-! DEFINITION. Instance control: RESET, RDSTAT and illegal commands (44_control R180 to R183). -/

namespace Sys2Proof.Machine

/-- RESET (44_control R180): always OK. -/
def execReset (k : Nat) (prof : Profile) (s : State) : Host.Outcome State Fault Refusal :=
  s.onInst k fun _ =>
    .next ((s.setInst k (Instance.fresh prof)).answer { status := .ok, results := .nothing })

/-- RDSTAT (44_control R182): always OK; no state changes. -/
def execRdstat (k : Nat) (s : State) : Host.Outcome State Fault Refusal :=
  s.onInst k fun inst => .next (s.answer { status := .ok, results := .stat (statWord inst) })

/-- An illegal command (44_control R183): ILLEGAL_COMMAND, and nothing but the status is written. -/
def execIllegal (_op : Byte) (s : State) : Host.Outcome State Fault Refusal :=
  .next (s.answer { status := .illegalCommand, results := .nothing })

end Sys2Proof.Machine
end

