-- ==== Sys2Proof/WellFormed.lean ====
section
/-! DEFINITION. Which instruction terms are instructions of the block: the checks of 30_encoding R60 to
R81 that the types of Syntax.lean do not already make. -/

namespace Sys2Proof

/-- The nine opcodes of 30_encoding R75. -/
def definedOpcodes : List Byte := [0x01#8, 0x10#8, 0x11#8, 0x12#8, 0x13#8, 0x20#8, 0x30#8, 0x40#8, 0x41#8]

/-- A frame's length byte counts the type byte and the payload bytes: L = 1 + payload byte count, so
1 ≤ L ≤ 255 (30_encoding R62, R73). -/
def FrameFields.wf (f : FrameFields) : Bool := decide (f.len.toNat = f.payload.length + 1)

/-- A type byte that selects RAW: 0x00 and 0x05 to 0xFF (30_encoding R66). -/
def unknownType (t : Byte) : Bool := !(t == 0x01#8 || t == 0x02#8 || t == 0x03#8 || t == 0x04#8)

/-- Well-formed instructions. Every operand of the nine commands is in range by its type; the instance
number is checked by the machine against NUM_INST (30_encoding R77). -/
def Instr.wf : Instr → Bool
  | .crc16 _ => true
  | .encRc _ _ _ => true
  | .encTlm _ _ _ => true
  | .encHb _ _ _ => true
  | .encExt _ _ _ => true
  | .decode _ _ => true
  | .feed _ _ => true
  | .reset _ _ => true
  | .rdstat _ => true
  | .illegal op => !(definedOpcodes.contains op)
  | .invalidLen0 => true
  | .frameRc f => f.wf
  | .frameTlm f => f.wf
  | .frameHb f => f.wf
  | .frameExt f => f.wf
  | .frameRaw t f => unknownType t && f.wf
  | .badSync b0 b1 => !(b0 == 0xAA#8 && b1 == 0x55#8)

/-- An instruction names an existing instance, or none (30_encoding R77: 0 to NUM_INST-1). -/
def Instr.inRange (numInst : Nat) (i : Instr) : Bool :=
  match i.namedInst with
  | none => true
  | some k => decide (k < numInst)

end Sys2Proof
end

