-- ==== Sys2Proof/Decode.lean ====
section
/-! DEFINITION. Decoding: the command opcode map (30_encoding R75, R76) and the frame dispatch
(42_decoder R130 steps 1 to 5, 30_encoding R80, R81); after it the encoder, written from the same tables. -/

namespace Sys2Proof

open Sys2Proof.Machine (headerByte1 headerByte2 header bytesLE16 memRead le16At)

/-- Why a request gives no instruction. -/
inductive Reject where
  /-- The span is too short to decide (42_decoder R130, R138); DECODE's INCOMPLETE. -/
  | incomplete
  /-- A read outside the span (00_scope R12). No span makes the decoder do this. -/
  | readOutsideSpan
deriving DecidableEq, Repr

/-- The decoder's dispatch cases before they are flattened into `Instr` (30_encoding R81). -/
inductive FrameRow where
  | invalidLen0
  | rc (f : FrameFields)
  | tlm (f : FrameFields)
  | hb (f : FrameFields)
  | ext (f : FrameFields)
  | raw (t : Byte) (f : FrameFields)
  | badSync (b0 b1 : Byte)
deriving DecidableEq, Repr

/-- The constructor of `Instr` that a dispatch case is. -/
def FrameRow.toInstr : FrameRow → Instr
  | .invalidLen0 => .invalidLen0
  | .rc f => .frameRc f
  | .tlm f => .frameTlm f
  | .hb f => .frameHb f
  | .ext f => .frameExt f
  | .raw t f => .frameRaw t f
  | .badSync b0 b1 => .badSync b0 b1

/-- The choice by the type byte alone (42_decoder R132, 30_encoding R65, R66). -/
def rowOfType (t : Byte) (f : FrameFields) : FrameRow :=
  if t = 0x01#8 then .rc f
  else if t = 0x02#8 then .tlm f
  else if t = 0x03#8 then .hb f
  else if t = 0x04#8 then .ext f
  else .raw t f

/-- The fields of a structurally complete frame with length byte L (30_encoding R60): type byte
`S[3]`, payload `S[4..3+L)`, received CRC `LE16(S, 3+L)`. -/
def decodeBody (L : Byte) (S : Span) : Except Reject FrameRow :=
  match S[3]?, memRead S 4 (L.toNat - 1), le16At S (3 + L.toNat) with
  | some t, some P, some rx => .ok (rowOfType t { len := L, payload := P, rxCrc := rx })
  | _, _, _ => .error .readOutsideSpan

/-- The frame at the start of a span: 42_decoder R130 steps 1 to 3 in its order (60_exceptions R205),
then the dispatch. Bytes after the frame are not looked at (42_decoder R138). -/
def decodeFrame (prof : Profile) (S : Span) : Except Reject FrameRow :=
  if S.length < 2 then .error .incomplete
  else
    match S[0]?, S[1]? with
    | some b0, some b1 =>
      if b0 ≠ headerByte1 prof ∨ b1 ≠ headerByte2 prof then .ok (.badSync b0 b1)
      else if S.length < 3 then .error .incomplete
      else
        match S[2]? with
        | some L =>
          if L = 0#8 then .ok .invalidLen0
          else if S.length < L.toNat + 5 then .error .incomplete
          else decodeBody L S
        | none => .error .readOutsideSpan
    | _, _ => .error .readOutsideSpan

/-- The command opcode map (30_encoding R75); any other opcode is the illegal command, and it reads no
operand (R76, 60_exceptions R207). Each command reads the operands of R77. -/
def decodeCommand (op : Byte) (a : Operands) : Instr :=
  if op = 0x01#8 then .crc16 a.S
  else if op = 0x10#8 then .encRc a.prof a.rc a.out
  else if op = 0x11#8 then .encTlm a.prof a.tlm a.out
  else if op = 0x12#8 then .encHb a.prof a.deviceStatus a.out
  else if op = 0x13#8 then .encExt a.prof a.ext a.out
  else if op = 0x20#8 then .decode a.prof a.S
  else if op = 0x30#8 then .feed a.k a.S
  else if op = 0x40#8 then .reset a.k a.prof
  else if op = 0x41#8 then .rdstat a.k
  else .illegal op

/-- The decoder. -/
def decode : Request → Except Reject Instr
  | .command op a => .ok (decodeCommand op a)
  | .span prof S =>
    match decodeFrame prof S with
    | .ok row => .ok row.toInstr
    | .error r => .error r

/-! ### The encoder -/

/-- The wire bytes of a frame of type t: `AA 55 | L | t | payload | crc_lo crc_hi` (30_encoding R60). -/
def frameBytes (t : Byte) (f : FrameFields) : Span :=
  header .A ++ [f.len, t] ++ f.payload ++ bytesLE16 f.rxCrc

/-- The request that carries an instruction: opcode and operands of a command (30_encoding R75, R77), or
the wire bytes that select a FRAME row (30_encoding R81). Operands a command does not read are zero. -/
def encode : Instr → Request
  | .crc16 S => .command 0x01#8 { Operands.zero with S := S }
  | .encRc prof input out => .command 0x10#8 { Operands.zero with prof := prof, rc := input, out := out }
  | .encTlm prof input out => .command 0x11#8 { Operands.zero with prof := prof, tlm := input, out := out }
  | .encHb prof st out => .command 0x12#8 { Operands.zero with prof := prof, deviceStatus := st, out := out }
  | .encExt prof input out => .command 0x13#8 { Operands.zero with prof := prof, ext := input, out := out }
  | .decode prof S => .command 0x20#8 { Operands.zero with prof := prof, S := S }
  | .feed k S => .command 0x30#8 { Operands.zero with k := k, S := S }
  | .reset k prof => .command 0x40#8 { Operands.zero with k := k, prof := prof }
  | .rdstat k => .command 0x41#8 { Operands.zero with k := k }
  | .illegal op => .command op Operands.zero
  | .invalidLen0 => .span .A (header .A ++ [0x00#8])
  | .frameRc f => .span .A (frameBytes 0x01#8 f)
  | .frameTlm f => .span .A (frameBytes 0x02#8 f)
  | .frameHb f => .span .A (frameBytes 0x03#8 f)
  | .frameExt f => .span .A (frameBytes 0x04#8 f)
  | .frameRaw t f => .span .A (frameBytes t f)
  | .badSync b0 b1 => .span .A [b0, b1]

/-! ### The opcode table as data (30_encoding R80) -/

/-- One row of spec/opcode_table.json: its mnemonic, and its `mask` and `match` on a w-bit value. -/
structure TableRow (w : Nat) where
  mnemonic : String
  mask : BitVec w
  pattern : BitVec w
deriving DecidableEq, Repr

/-- A row applies to a value when the bits under its mask are its pattern. -/
def TableRow.applies {w : Nat} (r : TableRow w) (v : BitVec w) : Bool := (v &&& r.mask) == r.pattern

/-- The CMD rows in the table's order; they apply to the 8-bit opcode. -/
def cmdTable : List (TableRow 8) :=
  [⟨"CRC16", 0xFF#8, 0x01#8⟩, ⟨"ENC_RC", 0xFF#8, 0x10#8⟩, ⟨"ENC_TLM", 0xFF#8, 0x11#8⟩, ⟨"ENC_HB", 0xFF#8, 0x12#8⟩,
   ⟨"ENC_EXT", 0xFF#8, 0x13#8⟩, ⟨"DECODE", 0xFF#8, 0x20#8⟩, ⟨"FEED", 0xFF#8, 0x30#8⟩, ⟨"RESET", 0xFF#8, 0x40#8⟩,
   ⟨"RDSTAT", 0xFF#8, 0x41#8⟩, ⟨"ILLEGAL", 0x00#8, 0x00#8⟩]

/-- The FRAME rows in the table's order; they apply to the first four wire bytes, byte 0 most
significant. -/
def frameTable : List (TableRow 32) :=
  [⟨"INVALID_LEN0", 0xFFFFFF00#32, 0xAA550000#32⟩, ⟨"FRAME_RC", 0xFFFF00FF#32, 0xAA550001#32⟩,
   ⟨"FRAME_TLM", 0xFFFF00FF#32, 0xAA550002#32⟩, ⟨"FRAME_HB", 0xFFFF00FF#32, 0xAA550003#32⟩,
   ⟨"FRAME_EXT", 0xFFFF00FF#32, 0xAA550004#32⟩, ⟨"FRAME_RAW", 0xFFFF0000#32, 0xAA550000#32⟩,
   ⟨"BAD_SYNC", 0x00000000#32, 0x00000000#32⟩]

/-- Rows "are tried in the table's order, and the first match wins" (30_encoding R80). -/
def firstMatch {w : Nat} (table : List (TableRow w)) (v : BitVec w) : Option String :=
  (table.find? fun r => r.applies v).map TableRow.mnemonic

/-- `S[0]<<24 | S[1]<<16 | S[2]<<8 | S[3]`, the value a FRAME row applies to (30_encoding R80). -/
def frameWord (b0 b1 b2 b3 : Byte) : BitVec 32 := b0 ++ b1 ++ b2 ++ b3

/-- The row of spec/opcode_table.json that a constructor stands for. -/
def Instr.mnemonic : Instr → String
  | .crc16 _ => "CRC16"
  | .encRc _ _ _ => "ENC_RC"
  | .encTlm _ _ _ => "ENC_TLM"
  | .encHb _ _ _ => "ENC_HB"
  | .encExt _ _ _ => "ENC_EXT"
  | .decode _ _ => "DECODE"
  | .feed _ _ => "FEED"
  | .reset _ _ => "RESET"
  | .rdstat _ => "RDSTAT"
  | .illegal _ => "ILLEGAL"
  | .invalidLen0 => "INVALID_LEN0"
  | .frameRc _ => "FRAME_RC"
  | .frameTlm _ => "FRAME_TLM"
  | .frameHb _ => "FRAME_HB"
  | .frameExt _ => "FRAME_EXT"
  | .frameRaw _ _ => "FRAME_RAW"
  | .badSync _ _ => "BAD_SYNC"

/-! ### The host's table words -/

/-- The four wire bytes of a 32-bit FRAME word, byte 0 from bits 31 to 24 (30_encoding R80; log 15). -/
def wordSpan (w : Nat) : Span :=
  [BitVec.ofNat 8 (w / 2 ^ 24), BitVec.ofNat 8 (w / 2 ^ 16), BitVec.ofNat 8 (w / 2 ^ 8), BitVec.ofNat 8 w]

/-- The request a table word stands for: an 8-bit word is an opcode with zero operands, a 32-bit word is
the first four wire bytes of a span whose other bytes are 0, up to the longest frame, 260 bytes
(00_scope R9; log 15). -/
def requestOfWord (nbits w : Nat) : Option Request :=
  if nbits = 8 then some (.command (BitVec.ofNat 8 w) Operands.zero)
  else if nbits = 32 then some (.span .A (wordSpan w ++ List.replicate 256 0#8))
  else none

/-- The instruction the decoder reads from a table word. -/
def decodeTableWord (nbits w : Nat) : Option Instr :=
  match requestOfWord nbits w with
  | none => none
  | some r =>
    match decode r with
    | .ok i => some i
    | .error _ => none

end Sys2Proof
end

