-- ==== Sys2Proof/Machine/Decoder.lean ====
section
/-! DEFINITION. The frame decoder: payload parsing (42_decoder R132 to R137), the meanings of the FRAME rows
(30_encoding R81) and the command DECODE (R130). -/

namespace Sys2Proof.Machine

/-- RC parse (42_decoder R133): the declared count is clamped to 8 and to the whole channels present. -/
def rcCount (P : Span) : Nat := min (g P 0).toNat (min Config.maxCh ((P.length - 1) / 2))

/-- RC parse (42_decoder R133). -/
def parseRc (P : Span) : RcPayload where
  channelCount := u8 (rcCount P)
  channels := Vector.ofFn fun i => if i.val < rcCount P then le16 (g P (1 + 2 * i.val)) (g P (2 + 2 * i.val)) else 0#16

/-- TLM parse (42_decoder R134). -/
def parseTlm (P : Span) : Tlm where
  voltageMv := le16 (g P 0) (g P 1)
  currentMa := le16 (g P 2) (g P 3)
  roll := le16 (g P 4) (g P 5)
  pitch := le16 (g P 6) (g P 7)
  yaw := le16 (g P 8) (g P 9)
  altitudeCm := le32 (g P 10) (g P 11) (g P 12) (g P 13)

/-- HB parse (42_decoder R135). -/
def parseHb (P : Span) : Byte := g P 0

/-- EXT parse (42_decoder R136): the declared length is clamped to 32 and to the bytes present. -/
def extLen (P : Span) : Nat := min (g P 1).toNat (min Config.maxParam (P.length - 2))

/-- EXT parse (42_decoder R136). -/
def parseExt (P : Span) : ExtPayload where
  cmdId := g P 0
  paramLen := u8 (extLen P)
  params := Vector.ofFn fun j => if j.val < extLen P then g P (2 + j.val) else 0#8

/-- RAW parse (42_decoder R137): the bytes, then zeros. -/
def parseRaw (P : Span) : RawPayload where
  rawLen := u8 P.length
  raw := Vector.ofFn fun j => g P j.val

/-- What DECODE answers (42_decoder R130): `consumed` and `frame` exist only under OK. -/
inductive DecodeResult where
  | incomplete
  | invalidHeader
  | ok (frame : ParsedFrame) (consumed : Nat)
deriving DecidableEq, Repr

/-- 42_decoder R130 steps 4 to 6: crc_ok is computed and the payload is parsed whatever crc_ok is, and the
whole frame, L + 5 bytes, is consumed. -/
def frameResult (t : Byte) (f : FrameFields) (p : Payload) : DecodeResult :=
  .ok { frameType := t, crcOk := crcOk t f, payload := p } (f.len.toNat + 5)

/-- The result of a dispatch case (30_encoding R81). -/
def rowResult : FrameRow → DecodeResult
  | .invalidLen0 => .invalidHeader
  | .rc f => frameResult 0x01#8 f (.rc (parseRc f.payload))
  | .tlm f => frameResult 0x02#8 f (.tlm (parseTlm f.payload))
  | .hb f => frameResult 0x03#8 f (.hb (parseHb f.payload))
  | .ext f => frameResult 0x04#8 f (.ext (parseExt f.payload))
  | .raw t f => frameResult t f (.raw (parseRaw f.payload))
  | .badSync _ _ => .invalidHeader

/-- `DECODE(prof, S)` (42_decoder R130). A read outside the span is a fault (00_scope R12). -/
def decodeSpan (prof : Profile) (S : Span) : Except Fault DecodeResult :=
  match decodeFrame prof S with
  | .ok row => .ok (rowResult row)
  | .error .incomplete => .ok .incomplete
  | .error .readOutsideSpan => .error .spanReadOutside

/-- The reply of a decode result (60_exceptions R200, 42_decoder R130). -/
def DecodeResult.reply : DecodeResult → Reply
  | .incomplete => { status := .incomplete, results := .nothing }
  | .invalidHeader => { status := .invalidHeader, results := .nothing }
  | .ok F c => { status := .ok, results := .decoded F c }

/-- DECODE (42_decoder R130): no state is read or written (R139). -/
def execDecode (prof : Profile) (S : Span) (s : State) : Host.Outcome State Fault Refusal :=
  match decodeSpan prof S with
  | .ok r => .next (s.answer r.reply)
  | .error f => .fault f

/-- `AA 55 00 xx` (30_encoding R73): INVALID_HEADER. -/
def execInvalidLen0 (s : State) : Host.Outcome State Fault Refusal :=
  .next (s.answer (rowResult .invalidLen0).reply)

/-- A RemoteControl frame (42_decoder R133). -/
def execFrameRc (f : FrameFields) (s : State) : Host.Outcome State Fault Refusal :=
  .next (s.answer (rowResult (.rc f)).reply)

/-- A Telemetry frame (42_decoder R134). -/
def execFrameTlm (f : FrameFields) (s : State) : Host.Outcome State Fault Refusal :=
  .next (s.answer (rowResult (.tlm f)).reply)

/-- A Heartbeat frame (42_decoder R135). -/
def execFrameHb (f : FrameFields) (s : State) : Host.Outcome State Fault Refusal :=
  .next (s.answer (rowResult (.hb f)).reply)

/-- An ExtendedCommand frame (42_decoder R136). -/
def execFrameExt (f : FrameFields) (s : State) : Host.Outcome State Fault Refusal :=
  .next (s.answer (rowResult (.ext f)).reply)

/-- A frame of unknown type (42_decoder R137). -/
def execFrameRaw (t : Byte) (f : FrameFields) (s : State) : Host.Outcome State Fault Refusal :=
  .next (s.answer (rowResult (.raw t f)).reply)

/-- Two leading bytes that are not the sync pattern (42_decoder R130 step 2): INVALID_HEADER. -/
def execBadSync (b0 b1 : Byte) (s : State) : Host.Outcome State Fault Refusal :=
  .next (s.answer (rowResult (.badSync b0 b1)).reply)

end Sys2Proof.Machine
end

