-- ==== Sys2Proof/Machine/Encoder.lean ====
section
/-! DEFINITION. The frame encoder: build_frame, emit_frame and the four encode commands
(41_encoder R100 to R106). -/

namespace Sys2Proof.Machine

/-- `build_frame(prof, type, P)` (41_encoder R100). -/
def buildFrame (prof : Profile) (t : Byte) (P : Span) : Span :=
  let body := [u8 (1 + P.length), t] ++ P
  header prof ++ body ++ bytesLE16 (crc16 body)

/-- `emit_frame(prof, type, P)` (41_encoder R101): the size check, then MemWrite(OUT, 0, |F|, F). -/
def emitFrame (prof : Profile) (t : Byte) (P : Span) (d : Dest) (s : State) :
    Host.Outcome State Fault Refusal :=
  let F := buildFrame prof t P
  if d.cap < F.length then .next (s.failEncode d .bufferTooSmall)
  else
    match memWrite s.out d 0 F with
    | some out => .next ({ s with out := out }.answer { status := .ok, results := .frameLen F.length })
    | none => .fault .destinationWriteOutside

/-- RemoteControl payload (30_encoding R67): the count byte, then channels[0..n) low byte first. -/
def rcPayload (r : RcInput) : Span :=
  r.channelCount :: (r.channels.toList.take r.channelCount.toNat).flatMap bytesLE16

/-- Telemetry payload, 14 bytes (30_encoding R68). -/
def tlmPayload (r : Tlm) : Span :=
  bytesLE16 r.voltageMv ++ bytesLE16 r.currentMa ++ bytesLE16 r.roll ++ bytesLE16 r.pitch ++
    bytesLE16 r.yaw ++ bytesLE32 r.altitudeCm

/-- ExtendedCommand payload (30_encoding R70): cmd_id, param_len, params[0..p). -/
def extPayload (r : ExtInput) : Span :=
  [r.cmdId, r.paramLen] ++ r.params.toList.take r.paramLen.toNat

/-- ENC_RC (41_encoder R102): the count is checked before the size (60_exceptions R206). -/
def execEncRc (prof : Profile) (r : RcInput) (d : Dest) (s : State) : Host.Outcome State Fault Refusal :=
  if r.channelCount.toNat < 1 ∨ Config.maxCh < r.channelCount.toNat then
    .next (s.failEncode d .invalidChannelCount)
  else emitFrame prof 0x01#8 (rcPayload r) d s

/-- ENC_TLM (41_encoder R103). -/
def execEncTlm (prof : Profile) (r : Tlm) (d : Dest) (s : State) : Host.Outcome State Fault Refusal :=
  emitFrame prof 0x02#8 (tlmPayload r) d s

/-- ENC_HB (41_encoder R104): any device_status is encoded unchanged. -/
def execEncHb (prof : Profile) (st : Byte) (d : Dest) (s : State) : Host.Outcome State Fault Refusal :=
  emitFrame prof 0x03#8 [st] d s

/-- ENC_EXT (41_encoder R105): param_len > 32 is BUFFER_TOO_SMALL whatever out_cap is. -/
def execEncExt (prof : Profile) (r : ExtInput) (d : Dest) (s : State) : Host.Outcome State Fault Refusal :=
  if Config.maxParam < r.paramLen.toNat then .next (s.failEncode d .bufferTooSmall)
  else emitFrame prof 0x04#8 (extPayload r) d s

end Sys2Proof.Machine
end

