-- ==== Sys2Proof/Machine/Reassembler.lean ====
section
/-! DEFINITION. The stream reassembler: the command FEED (43_reassembler R160 to R165). -/

namespace Sys2Proof.Machine

/-- The decode loop (43_reassembler R162, R163) over `B = BUF[0..LEN)`, from the cursor `cur` (10_state R25).
Each pass exits or raises the cursor, so |B| + 1 passes suffice (R166; log 11). -/
def decodeLoop (prof : Profile) (B : Span) : Nat → Nat → List ParsedFrame → Except Fault (Nat × List ParsedFrame)
  | 0, cur, fs => .ok (cur, fs)
  | fuel + 1, cur, fs =>
    match decodeSpan prof (B.drop cur) with
    | .error f => .error f
    | .ok .incomplete => .ok (cur, fs)
    | .ok .invalidHeader => decodeLoop prof B fuel (cur + 1) fs
    | .ok (.ok F c) => decodeLoop prof B fuel (cur + c) (fs ++ [F])

/-- FEED on a live instance whose chunk fits (43_reassembler R160): append, decode loop, compaction (R164).
The bytes at and beyond the new LEN hold no value (10_state R34). -/
def feedLive (inst : Instance) (S : Span) : Except Fault (Instance × Reply) :=
  let buf := Memory.writeSpan inst.buf inst.len S
  let len := inst.len + S.length
  match Memory.readSpan buf 0 len with
  | none => .error .bufferByteHasNoValue
  | some B =>
    match decodeLoop inst.profile B (len + 1) 0 [] with
    | .error f => .error f
    | .ok (cur, fs) =>
      .ok ({ inst with buf := Memory.ofSpan (B.drop cur), len := len - cur },
           { status := .ok, results := .frames fs })

/-- BUFFER_OVERFLOW, with no frame (43_reassembler R161, R165). -/
def overflowReply : Reply := { status := .bufferOverflow, results := .frames [] }

/-- FEED on one instance (43_reassembler R160): the dead test first, then the overflow test
(60_exceptions R207). On overflow the held bytes are dropped and DEAD is set (R161). -/
def feedInst (cap : Nat) (inst : Instance) (S : Span) : Except Fault (Instance × Reply) :=
  if inst.dead then .ok (inst, overflowReply)
  else if overflows cap inst S then .ok ({ inst with buf := [], len := 0, dead := true }, overflowReply)
  else feedLive inst S

/-- FEED (43_reassembler R160). -/
def execFeed (k : Nat) (S : Span) (s : State) : Host.Outcome State Fault Refusal :=
  s.onInst k fun inst =>
    match feedInst s.params.cap inst S with
    | .ok (inst', r) => .next ((s.setInst k inst').answer r)
    | .error f => .fault f

end Sys2Proof.Machine
end

