-- ==== Sys2Proof/Machine/Dispatch.lean ====
section
/-! DEFINITION. One arm per constructor of Instr, each one direct call of its meaning. -/

namespace Sys2Proof.Machine

def exec (i : Instr) (s : State) : Host.Outcome State Fault Refusal :=
  match i with
  | .crc16 S => Sys2Proof.Machine.execCrc16 S s
  | .encRc prof input out => Sys2Proof.Machine.execEncRc prof input out s
  | .encTlm prof input out => Sys2Proof.Machine.execEncTlm prof input out s
  | .encHb prof st out => Sys2Proof.Machine.execEncHb prof st out s
  | .encExt prof input out => Sys2Proof.Machine.execEncExt prof input out s
  | .decode prof S => Sys2Proof.Machine.execDecode prof S s
  | .feed k S => Sys2Proof.Machine.execFeed k S s
  | .reset k prof => Sys2Proof.Machine.execReset k prof s
  | .rdstat k => Sys2Proof.Machine.execRdstat k s
  | .illegal op => Sys2Proof.Machine.execIllegal op s
  | .invalidLen0 => Sys2Proof.Machine.execInvalidLen0 s
  | .frameRc f => Sys2Proof.Machine.execFrameRc f s
  | .frameTlm f => Sys2Proof.Machine.execFrameTlm f s
  | .frameHb f => Sys2Proof.Machine.execFrameHb f s
  | .frameExt f => Sys2Proof.Machine.execFrameExt f s
  | .frameRaw t f => Sys2Proof.Machine.execFrameRaw t f s
  | .badSync b0 b1 => Sys2Proof.Machine.execBadSync b0 b1 s

end Sys2Proof.Machine
end

