-- ==== Sys2Proof/Machine/Issue.lean ====
section
/-! DEFINITION. How the next request is taken and admitted: the command stream is consumed as issued
(20_memory R56), and overlapping or re-entrant issue is refused (70_reset_and_hazards R233, R234). -/

namespace Sys2Proof.Machine

/-- An issue with no command in flight and no frame being handled. -/
def Context.quiet : Context := { inFlight := [], handling := [] }

/-- The next request, the oldest one, and the state without it; none when the host has issued nothing. -/
def fetch (s : State) : Option (Issue × State) :=
  match s.pending with
  | [] => none
  | iss :: rest => some (iss, { s with pending := rest })

/-- The host issues a request: it is executed after every earlier one (20_memory R51). -/
def State.issue (s : State) (iss : Issue) : State := { s with pending := s.pending ++ [iss] }

/-- The host puts a request at the head of the stream. -/
def State.issueNext (s : State) (iss : Issue) : State := { s with pending := iss :: s.pending }

/-- Why an instruction is not admitted under its issue's context: its instance has a command in flight
(70_reset_and_hazards R233) or its frames are being handled (R234, 60_exceptions R208). Codec commands
name no instance and are always admitted (20_memory R53). -/
def issueRefusal (ctx : Context) (i : Instr) : Option Refusal :=
  match i.namedInst with
  | none => none
  | some k =>
    if ctx.inFlight.contains k then some (.overlappingIssue k)
    else if ctx.handling.contains k then some (.reentrantIssue k)
    else none

/-- A span at the decoder's input that selects no row: INCOMPLETE (42_decoder R130), or a fault where the
decoder read outside the span (00_scope R12). -/
def rejected (r : Reject) (s : State) : Host.Outcome State Fault Refusal :=
  match r with
  | .incomplete => .next (s.answer (DecodeResult.reply .incomplete))
  | .readOutsideSpan => .fault .spanReadOutside

/-- No request: the block changes by commands only (10_state R20, 70_reset_and_hazards R230), so it stays
as it is (log 2). -/
def idle (s : State) : Host.Outcome State Fault Refusal := .next s

end Sys2Proof.Machine
end

