-- ==== Sys2Proof/Machine/Step.lean ====
section
/-! DEFINITION. One step of the machine: take the oldest issued request, decode it, issueRefusal it, run it
(00_scope R3: each operation is one atomic step). -/

namespace Sys2Proof.Machine

/-- One step. -/
def step (s : State) : Host.Outcome State Fault Refusal :=
  match fetch s with
  | none => idle s
  | some (iss, s') =>
    match decode iss.request with
    | .error r => rejected r s'
    | .ok i =>
      match issueRefusal iss.ctx i with
      | some r => .refused r
      | none => exec i s'

/-- The state whose next step runs the instruction of a table word: its request at the head of the
command stream, issued with nothing in flight (log 13). A word of another width is no row's. -/
def State.withFetchWord (s : State) (nbits w : Nat) : State :=
  match requestOfWord nbits w with
  | some r => s.issueNext { ctx := Context.quiet, request := r }
  | none => s

end Sys2Proof.Machine
end

