-- ==== Sys2Proof/Machine/Assembler.lean ====
section
/-! DEFINITION. The assembler of 30_encoding R79: its command lines as typed data, its pseudo-commands and the
request each line assembles to. The characters of a line are left out (log 17). -/

namespace Sys2Proof.Machine

/-- The payload operand of the pseudo-command ENC (30_encoding R79): one input record per frame type. -/
inductive EncInput where
  | rc (r : RcInput)
  | tlm (r : Tlm)
  | hb (deviceStatus : Byte)
  | ext (r : ExtInput)
deriving DecidableEq, Repr

/-- The pseudo-commands of 30_encoding R79. -/
inductive Pseudo where
  | enc (prof : Profile) (t : Byte) (input : EncInput) (out : Dest)
  | drop (k : Nat)
deriving DecidableEq, Repr

/-- The expansion of a pseudo-command (30_encoding R79). ENC expands for types 0x01 to 0x04 and is rejected (none)
for every other type; DROP k expands to RESET k, PROFILE_k. DESIGN CHOICE (log 17), of which R79 says nothing:
ENC of a type 0x01 to 0x04 with the payload record of another type is rejected, and so is DROP of an instance
that does not exist. -/
def Pseudo.expand (s : State) : Pseudo → Option Instr
  | .enc prof t (.rc r) out => if t = 0x01#8 then some (.encRc prof r out) else none
  | .enc prof t (.tlm r) out => if t = 0x02#8 then some (.encTlm prof r out) else none
  | .enc prof t (.hb st) out => if t = 0x03#8 then some (.encHb prof st out) else none
  | .enc prof t (.ext r) out => if t = 0x04#8 then some (.encExt prof r out) else none
  | .drop k => (s.insts[k]?).map fun inst => .reset k inst.profile

/-- A list of at most n operands as an array of n, absent entries 0 (30_encoding R79); a longer list has no
place for its surplus entries and is rejected (log 17). -/
def padded {w : Nat} (n : Nat) (xs : List (BitVec w)) : Option (Vector (BitVec w) n) :=
  if xs.length ≤ n then some (Vector.ofFn fun i => xs.getD i.val (0#w)) else none

/-- The lines of a command sequence (30_encoding R79): the nine commands, with the channels of ENC_RC and the
parameters of ENC_EXT as lists, and the pseudo-commands. -/
inductive AsmLine where
  | crc16 (S : Span)
  | encRc (prof : Profile) (n : Byte) (channels : List Half) (out : Dest)
  | encTlm (prof : Profile) (input : Tlm) (out : Dest)
  | encHb (prof : Profile) (deviceStatus : Byte) (out : Dest)
  | encExt (prof : Profile) (cmdId p : Byte) (params : List Byte) (out : Dest)
  | decode (prof : Profile) (S : Span)
  | feed (k : Nat) (S : Span)
  | reset (k : Nat) (prof : Profile)
  | rdstat (k : Nat)
  | pseudo (p : Pseudo)
deriving DecidableEq, Repr

/-- The instruction of a line; none where the assembler rejects it. -/
def AsmLine.instr (s : State) : AsmLine → Option Instr
  | .crc16 S => some (.crc16 S)
  | .encRc prof n cs out =>
    (padded Config.maxCh cs).map fun v => .encRc prof { channelCount := n, channels := v } out
  | .encTlm prof input out => some (.encTlm prof input out)
  | .encHb prof st out => some (.encHb prof st out)
  | .encExt prof id p qs out =>
    (padded Config.maxParam qs).map fun v => .encExt prof { cmdId := id, paramLen := p, params := v } out
  | .decode prof S => some (.decode prof S)
  | .feed k S => some (.feed k S)
  | .reset k prof => some (.reset k prof)
  | .rdstat k => some (.rdstat k)
  | .pseudo p => p.expand s

/-- The request a line assembles to: opcode and operands of its instruction (30_encoding R75, R77). -/
def AsmLine.assemble (s : State) (l : AsmLine) : Option Request := (l.instr s).map encode

end Sys2Proof.Machine
end

