-- ==== Sys2Proof/Safety.lean ====
section
/-! DEFINITION. The terms claims are stated in: the invariant of the block (10_state R28, R35), what a wire
frame is, what an encode writes, and the run of a byte stream through the decoder (43_reassembler R162). -/

namespace Sys2Proof.Machine

/-! ### Well-formed results -/

/-- A ParsedFrame is one of the records of 10_state R27 and R28: the kind fits the type byte, the counts
stay in range, and array entries at or beyond the count are 0. -/
def ParsedFrame.wf (F : ParsedFrame) : Prop :=
  match F.payload with
  | .rc p =>
    F.frameType = 0x01#8 ∧ p.channelCount.toNat ≤ 8 ∧
      ∀ i : Fin 8, p.channelCount.toNat ≤ i.val → p.channels[i] = 0#16
  | .tlm _ => F.frameType = 0x02#8
  | .hb _ => F.frameType = 0x03#8
  | .ext p =>
    F.frameType = 0x04#8 ∧ p.paramLen.toNat ≤ 32 ∧
      ∀ j : Fin 32, p.paramLen.toNat ≤ j.val → p.params[j] = 0#8
  | .raw p =>
    unknownType F.frameType = true ∧ p.rawLen.toNat ≤ 254 ∧
      ∀ j : Fin 254, p.rawLen.toNat ≤ j.val → p.raw[j] = 0#8

/-- The frames a reply carries. -/
def Reply.frames (r : Reply) : List ParsedFrame :=
  match r.results with
  | .decoded F _ => [F]
  | .frames fs => fs
  | .nothing => []
  | .crc _ => []
  | .frameLen _ => []
  | .stat _ => []

/-- The reply of a command that only returns a status. -/
def statusOnly (st : Status) : Reply := { status := st, results := .nothing }

/-- DECODE's OK reply (42_decoder R130): the frame and the bytes consumed. -/
def okDecoded (t : Byte) (crcOk : Bool) (p : Payload) (consumed : Nat) : Reply :=
  { status := .ok, results := .decoded { frameType := t, crcOk := crcOk, payload := p } consumed }

/-- FEED's OK reply (43_reassembler R160): the emitted frames in order. -/
def okFrames (fs : List ParsedFrame) : Reply := { status := .ok, results := .frames fs }

/-- The answer of a command that changes nothing but the reply. -/
def onlyReply (s : State) (r : Reply) : Host.Outcome State Fault Refusal := .next { s with reply := some r }

/-- The answer of a command that changes nothing but instance k and the reply. -/
def onlyInst (s : State) (k : Nat) (inst : Instance) (r : Reply) : Host.Outcome State Fault Refusal :=
  .next { s with insts := s.insts.set k inst, reply := some r }

/-! ### The invariant -/

/-- The instance holds exactly the bytes H: `BUF[0..LEN) = H`, and no other byte of BUF has a value
(10_state R21, R34). -/
def Instance.Holds (inst : Instance) (H : Span) : Prop :=
  inst.buf = Memory.ofSpan H ∧ inst.len = H.length

/-- 10_state R35: LEN ≤ CAP, and either DEAD = 1 and LEN = 0, or DEAD = 0 and the held bytes decode
INCOMPLETE. -/
structure Instance.Inv (cap : Nat) (inst : Instance) : Prop where
  len_le_cap : inst.len ≤ cap
  held : ∃ H : Span, inst.Holds H ∧
    (inst.dead = true → H = []) ∧
    (inst.dead = false → decodeSpan inst.profile H = .ok .incomplete)

/-- The invariant of the machine: legal parameters (00_scope R8), NUM_INST instances that each satisfy
10_state R35, canonical OUT, and only well-formed frames in the last reply (R27, R28). -/
structure State.Inv (s : State) : Prop where
  params_legal : s.params.legal = true
  insts_length : s.insts.length = s.params.numInst
  insts_inv : ∀ inst ∈ s.insts, inst.Inv s.params.cap
  out_wf : Memory.wf s.out = true
  reply_wf : ∀ r, s.reply = some r → ∀ F ∈ r.frames, F.wf

/-! ### Wire frames -/

/-- The wire frame of type t with payload P: `AA 55 | L | t | P | crc_lo crc_hi`, with L = 1 + |P| and the
CRC over length, type and payload (30_encoding R60 to R64). -/
def wireFrame (t : Byte) (P : Span) : Span :=
  let body := [BitVec.ofNat 8 (1 + P.length), t] ++ P
  let c := (crc16 body).toNat
  [0xAA#8, 0x55#8] ++ body ++ [BitVec.ofNat 8 c, BitVec.ofNat 8 (c / 256)]

/-- S begins with a structurally complete frame with length byte L (42_decoder R130 steps 1 to 3). -/
def CompleteFrame (S : Span) (L : Nat) : Prop :=
  S.getD 0 0#8 = 0xAA#8 ∧ S.getD 1 0#8 = 0x55#8 ∧ (S.getD 2 0#8).toNat = L ∧ 1 ≤ L ∧ L + 5 ≤ S.length

/-- Payload byte j of such a frame, 0 past the payload: `g(j)` of 42_decoder R132. -/
def payloadByte (S : Span) (L j : Nat) : Byte := if j < L - 1 then S.getD (4 + j) 0#8 else 0#8

/-- S with bit j of byte i flipped. -/
def flipBit (S : Span) (i j : Nat) : Span := S.modify i fun b => b ^^^ (1#8 <<< j)

/-! ### What an encode does -/

/-- A successful encode with destination d wrote exactly the span F at OUT[0..|F|): nothing else changed but
the reply, which gives frame_len = |F| (20_memory R50, 41_encoder R101). -/
def Wrote (s t : State) (d : Dest) (F : Span) : Prop :=
  t = { s with out := t.out, reply := some { status := .ok, results := .frameLen F.length } } ∧
  (∀ i, i < F.length → Memory.read t.out (d.base + i) = F[i]?) ∧
  ∀ a, a < d.base ∨ d.base + F.length ≤ a → Memory.read t.out a = Memory.read s.out a

/-- A failed encode with destination d: the status and no frame_len; no instance changes, and no byte outside
OUT[0..out_cap) changes. The bytes inside are any value: nothing is said of them (41_encoder R106). -/
def FailedEncode (s t : State) (d : Dest) (st : Status) : Prop :=
  t = { s with out := t.out, draws := t.draws, reply := some { status := st, results := .nothing } } ∧
  ∀ a, a < d.base ∨ d.base + d.cap ≤ a → Memory.read t.out a = Memory.read s.out a

/-! ### Streams -/

/-- A byte stream B run through the decoder to its fixed point (43_reassembler R162): a bad header skips one
byte, a complete frame is emitted and skipped whole, and an incomplete rest stops the run. -/
inductive Stream (prof : Profile) : Span → List ParsedFrame → Span → Prop where
  | stop {B : Span} : decodeSpan prof B = .ok .incomplete → Stream prof B [] B
  | skip {B R : Span} {fs : List ParsedFrame} :
      decodeSpan prof B = .ok .invalidHeader → Stream prof (B.drop 1) fs R → Stream prof B fs R
  | emit {B R : Span} {F : ParsedFrame} {c : Nat} {fs : List ParsedFrame} :
      decodeSpan prof B = .ok (.ok F c) → Stream prof (B.drop c) fs R → Stream prof B (F :: fs) R

/-- The FEEDs of a list of chunks to instance k, in order: the state after them and all emitted frames; none
when one of them does not return OK. -/
def runFeeds (k : Nat) : State → List Span → Option (State × List ParsedFrame)
  | s, [] => some (s, [])
  | s, S :: Ss =>
    match exec (.feed k S) s with
    | .next t =>
      match t.reply with
      | some r =>
        if r.status = .ok then (runFeeds k t Ss).map fun p => (p.1, r.frames ++ p.2) else none
      | none => none
    | .fault _ => none
    | .refused _ => none

/-- The outcome with its next state changed by f. -/
def mapNext (f : State → State) : Host.Outcome State Fault Refusal → Host.Outcome State Fault Refusal
  | .next t => .next (f t)
  | .fault x => .fault x
  | .refused x => .refused x

/-- The destination operand of an instruction, if it has one: the four encodes do (30_encoding R77). -/
def destOf : Instr → Option Dest
  | .encRc _ _ d => some d
  | .encTlm _ _ d => some d
  | .encHb _ _ d => some d
  | .encExt _ _ d => some d
  | .crc16 _ => none
  | .decode _ _ => none
  | .feed _ _ => none
  | .reset _ _ => none
  | .rdstat _ => none
  | .illegal _ => none
  | .invalidLen0 => none
  | .frameRc _ => none
  | .frameTlm _ => none
  | .frameHb _ => none
  | .frameExt _ => none
  | .frameRaw _ _ => none
  | .badSync _ _ => none

/-- The four encode commands. -/
def isEncode (i : Instr) : Bool := (destOf i).isSome

/-- No byte outside OUT[0..out_cap) of destination d differs (41_encoder R106, 20_memory R50). -/
def SameOutside (d : Dest) (s t : State) : Prop :=
  ∀ a, a < d.base ∨ d.base + d.cap ≤ a → Memory.read t.out a = Memory.read s.out a

/-- Instruction i is a FEED of a live instance, and its chunk takes LEN past CAP (43_reassembler R161). -/
def OverflowingFeed (i : Instr) (s : State) : Prop :=
  ∃ (k : Nat) (S : Span) (inst : Instance), i = .feed k S ∧ s.insts[k]? = some inst ∧ inst.dead = false ∧
    s.params.cap < inst.len + S.length

/-- The statuses 60_exceptions R200 lists for each command. For a FRAME row, which R200 does not list, those
that DECODE returns for its dispatch case (30_encoding R81; log 3). -/
def statusesOf : Instr → List Status
  | .crc16 _ => [.ok]
  | .encRc _ _ _ => [.ok, .invalidChannelCount, .bufferTooSmall]
  | .encTlm _ _ _ => [.ok, .bufferTooSmall]
  | .encHb _ _ _ => [.ok, .bufferTooSmall]
  | .encExt _ _ _ => [.ok, .bufferTooSmall]
  | .decode _ _ => [.ok, .incomplete, .invalidHeader]
  | .feed _ _ => [.ok, .bufferOverflow]
  | .reset _ _ => [.ok]
  | .rdstat _ => [.ok]
  | .illegal _ => [.illegalCommand]
  | .invalidLen0 => [.invalidHeader]
  | .frameRc _ => [.ok]
  | .frameTlm _ => [.ok]
  | .frameHb _ => [.ok]
  | .frameExt _ => [.ok]
  | .frameRaw _ _ => [.ok]
  | .badSync _ _ => [.invalidHeader]

end Sys2Proof.Machine
end

