-- ==== Sys2Proof/Certificates/Slice0/Obligations.lean ====
section
/-! DEFINITION. The statements for the provers. Every definition here is a statement; none is proved here. -/

open Sys2Proof Sys2Proof.Machine

/-! ### Encoding and decoding -/

/-- An opcode outside the map is the illegal command, whatever its operands are; it returns ILLEGAL_COMMAND and
changes nothing (30_encoding R76, 44_control R183). -/
def Obligations.UndefinedOpcodesAreIllegalWithNoEffect : Prop :=
  ∀ (op : Byte) (a : Operands) (s : State),
    (op.toNat = 0 ∨ (0x02 ≤ op.toNat ∧ op.toNat ≤ 0x0F) ∨ (0x14 ≤ op.toNat ∧ op.toNat ≤ 0x1F) ∨
      (0x21 ≤ op.toNat ∧ op.toNat ≤ 0x2F) ∨ (0x31 ≤ op.toNat ∧ op.toNat ≤ 0x3F) ∨ 0x42 ≤ op.toNat) →
    decode (.command op a) = .ok (.illegal op) ∧
    exec (.illegal op) s = onlyReply s (statusOnly .illegalCommand)

/-- The opcode map of 30_encoding R75 with the operands of R77. -/
def Obligations.DefinedOpcodesSelectTheirCommand : Prop :=
  ∀ a : Operands,
    decode (.command 0x01#8 a) = .ok (.crc16 a.S) ∧
    decode (.command 0x10#8 a) = .ok (.encRc a.prof a.rc a.out) ∧
    decode (.command 0x11#8 a) = .ok (.encTlm a.prof a.tlm a.out) ∧
    decode (.command 0x12#8 a) = .ok (.encHb a.prof a.deviceStatus a.out) ∧
    decode (.command 0x13#8 a) = .ok (.encExt a.prof a.ext a.out) ∧
    decode (.command 0x20#8 a) = .ok (.decode a.prof a.S) ∧
    decode (.command 0x30#8 a) = .ok (.feed a.k a.S) ∧
    decode (.command 0x40#8 a) = .ok (.reset a.k a.prof) ∧
    decode (.command 0x41#8 a) = .ok (.rdstat a.k)

/-- Frames written out byte by byte from 30_encoding R60 to R70 and 95_test_vectors decode to what they stand
for: V-DEC-1, V-DEC-12, V-DEC-5 and V-DEC-7.
Reading a FRAME row as an instruction is the model's choice (log 3). -/
def Obligations.WrittenOutFramesDecode : Prop :=
  decode (.span .A [0xAA#8, 0x55#8, 0x02#8, 0x03#8, 0x01#8, 0x11#8, 0x30#8]) =
    .ok (.frameHb { len := 0x02#8, payload := [0x01#8], rxCrc := 0x3011#16 }) ∧
  decode (.span .B [0xAA#8, 0x55#8, 0x04#8, 0x07#8, 0x01#8, 0x02#8, 0x03#8, 0xC4#8, 0x15#8]) =
    .ok (.frameRaw 0x07#8 { len := 0x04#8, payload := [0x01#8, 0x02#8, 0x03#8], rxCrc := 0x15C4#16 }) ∧
  decode (.span .A [0x00#8, 0x55#8]) = .ok (.badSync 0x00#8 0x55#8) ∧
  decode (.span .A [0xAA#8, 0x55#8, 0x00#8, 0x01#8, 0x02#8]) = .ok .invalidLen0

/-- Decoding the encoding of a well-formed instruction gives it back, every operand at every value.
The FRAME rows as instructions are the model's choice (log 3). -/
def Obligations.DecodeOfEncodeGivesTheInstructionBack : Prop :=
  ∀ i : Instr, i.wf = true → decode (encode i) = .ok i

/-- What the decoder reads from a span is well formed, and its encoding is what the span begins with: no bit of
the frame is dropped and nothing behind it is read.
Reading a FRAME row as an instruction is the model's choice (log 3). -/
def Obligations.DecodedFrameEncodesToTheBytesItCameFrom : Prop :=
  ∀ (prof : Profile) (S : Span) (i : Instr), decode (.span prof S) = .ok i →
    i.wf = true ∧ ∃ W rest : Span, encode i = .span .A W ∧ S = W ++ rest

/-- The rows of the opcode table tried in order (30_encoding R80) select the same case as the decoder.
Reading a FRAME row as an instruction is the model's choice (log 3). -/
def Obligations.OpcodeTableFirstMatchAgreesWithTheDecoder : Prop :=
  (∀ (op : Byte) (a : Operands), firstMatch cmdTable op = some (decodeCommand op a).mnemonic) ∧
  ∀ (prof : Profile) (b0 b1 b2 b3 : Byte) (rest : Span) (i : Instr),
    decode (.span prof (b0 :: b1 :: b2 :: b3 :: rest)) = .ok i →
    firstMatch frameTable (frameWord b0 b1 b2 b3) = some i.mnemonic

/-! ### Reset, steps and the whole machine -/

/-- Power-on with any parameters: every instance is as RESET(k, PROFILE_POR) leaves it, and STAT reads
PROFILE_POR << 17 (70_reset_and_hazards R230, R231; 10_state R36). -/
def Obligations.PowerOnLeavesEveryInstanceFresh : Prop :=
  ∀ (p : Params) (k : Nat), k < p.numInst →
    (State.powerOn p).insts.length = p.numInst ∧
    (State.powerOn p).insts[k]? =
      some { profile := p.profilePor, buf := [], len := 0, dead := false } ∧
    exec (.reset k p.profilePor) (State.powerOn p) =
      onlyReply (State.powerOn p) (statusOnly .ok) ∧
    exec (.rdstat k) (State.powerOn p) =
      onlyReply (State.powerOn p) { status := .ok, results := .stat (if p.profilePor = .A then 0#32 else 0x00020000#32) }

/-- The invariant holds at power-on for every legal parameter choice, and at reset. -/
def Obligations.PowerOnMeetsTheInvariant : Prop :=
  (∀ p : Params, p.legal = true → (State.powerOn p).Inv) ∧ State.reset.Inv

/-- Every step keeps the invariant: legal parameters, NUM_INST instances each as 10_state R35 says, canonical
OUT, and well-formed frames (R27, R28) in the reply. -/
def Obligations.EveryStepKeepsTheInvariant : Prop :=
  ∀ s s' : State, s.Inv → step s = .next s' → s'.Inv

/-- From a state that meets the invariant no step reads a byte of BUF without a value, reads outside a span or
writes outside OUT (00_scope R12, 10_state R34). -/
def Obligations.NoStepFaultsUnderTheInvariant : Prop :=
  ∀ (s : State) (x : Fault), s.Inv → step s ≠ .fault x

/-- The decoder reads no byte outside its span, whatever the span is (00_scope R12). -/
def Obligations.DecodingNeverReadsOutsideTheSpan : Prop :=
  ∀ (prof : Profile) (S : Span),
    decodeFrame prof S ≠ .error .readOutsideSpan ∧ ∃ r, decodeSpan prof S = .ok r

/-- A step runs the instruction that the oldest request decodes to, with that request taken off the stream;
with nothing issued it changes nothing, and a span too short for a FRAME row is answered INCOMPLETE.
The command stream and idling are the model's choice (log 2), and so is the span as a request (log 3). -/
def Obligations.StepRunsTheDecodedRequest : Prop :=
  (∀ (s : State) (iss : Issue) (rest : List Issue) (i : Instr),
    s.pending = iss :: rest → decode iss.request = .ok i → issueRefusal iss.ctx i = none →
    step s = exec i { s with pending := rest }) ∧
  (∀ (s : State) (iss : Issue) (rest : List Issue),
    s.pending = iss :: rest → decode iss.request = .error .incomplete →
    step s = onlyReply { s with pending := rest } (statusOnly .incomplete)) ∧
  ∀ s : State, s.pending = [] → step s = .next s

/-- A command of an instance that has a command in flight, or whose frames the host is handling, is refused
(70_reset_and_hazards R233, R234); a command of any other instance and a request that names no instance run, also
from the frame handler (60_exceptions R208, 20_memory R53). The context a request is issued under is the model's
choice (log 4). -/
def Obligations.OverlappingAndReentrantIssueIsRefused : Prop :=
  (∀ (s : State) (iss : Issue) (rest : List Issue) (i : Instr) (k : Nat),
    s.pending = iss :: rest → decode iss.request = .ok i → i.namedInst = some k →
    (k ∈ iss.ctx.inFlight → step s = .refused (.overlappingIssue k)) ∧
    (k ∉ iss.ctx.inFlight → k ∈ iss.ctx.handling → step s = .refused (.reentrantIssue k)) ∧
    (k ∉ iss.ctx.inFlight → k ∉ iss.ctx.handling → step s = exec i { s with pending := rest })) ∧
  ∀ (s : State) (iss : Issue) (rest : List Issue) (i : Instr),
    s.pending = iss :: rest → decode iss.request = .ok i → i.namedInst = none →
    step s = exec i { s with pending := rest }

/-- A command with an instance number outside 0 to NUM_INST-1 is refused (30_encoding R77). -/
def Obligations.InstanceNumbersOutOfRangeAreRefused : Prop :=
  ∀ (s : State) (k : Nat) (S : Span) (prof : Profile),
    s.insts.length = s.params.numInst → s.params.numInst ≤ k →
    exec (.feed k S) s = .refused (.noSuchInstance k) ∧
    exec (.reset k prof) s = .refused (.noSuchInstance k) ∧
    exec (.rdstat k) s = .refused (.noSuchInstance k)

/-- Every request that is not refused under the context it is issued in, whatever that is, and that names an existing
instance or none, completes in one step with a reply, and the step takes it alone off the stream (60_exceptions
R215, R200, R208). The command stream and the context are the model's choice (log 2, log 4). -/
def Obligations.EveryAdmissibleRequestCompletes : Prop :=
  ∀ (s : State) (iss : Issue) (rest : List Issue), s.Inv → s.pending = iss :: rest →
    (∀ i, decode iss.request = .ok i →
      issueRefusal iss.ctx i = none ∧ i.inRange s.params.numInst = true) →
    ∃ (t : State) (p : Reply), step s = .next t ∧ t.reply = some p ∧ t.pending = rest

/-- Every command returns exactly one reply, with one of the statuses 60_exceptions R200 lists for it, and the
status codes are those of its table; 0x07 to 0xFF are never returned. A FRAME row, which R200 does not list, returns
what DECODE returns for its dispatch case (30_encoding R81); running it as an instruction is the model's choice
(log 3). -/
def Obligations.EveryCommandReturnsAStatusOfItsList : Prop :=
  (∀ (i : Instr) (s t : State), exec i s = .next t →
    ∃ r : Reply, t.reply = some r ∧ r.status ∈ statusesOf i ∧ (statusCode r.status).toNat ≤ 0x06) ∧
  statusCode .ok = 0x00#8 ∧ statusCode .incomplete = 0x01#8 ∧ statusCode .invalidHeader = 0x02#8 ∧
  statusCode .invalidChannelCount = 0x03#8 ∧ statusCode .bufferTooSmall = 0x04#8 ∧
  statusCode .bufferOverflow = 0x05#8 ∧ statusCode .illegalCommand = 0x06#8

/-- No operation on instance k reads or writes the state of another instance j: changing instance j before the
command or after it is the same, and the command leaves j as it was (10_state R37). -/
def Obligations.InstancesAreIndependent : Prop :=
  ∀ (i : Instr) (s : State) (j : Nat) (x : Instance), i.namedInst ≠ some j →
    exec i (s.setInst j x) = mapNext (fun t => t.setInst j x) (exec i s) ∧
    ∀ t, exec i s = .next t → t.insts[j]? = s.insts[j]?

/-- What each command may write (20_memory R49). No command writes an instance it does not name, and FEED and RESET
alone write the one they name, FEED not its PROFILE; an encode writes OUT inside OUT[0..out_cap) alone, and no
other command writes OUT; besides, each writes the reply. The counter of free values, which an encode may raise, is
the model's own (log 6), and so are the reply and the stream (log 7, log 2). -/
def Obligations.CommandsWriteOnlyWhatTheirRulesName : Prop :=
  ∀ (i : Instr) (s t : State), exec i s = .next t →
    t.params = s.params ∧ t.pending = s.pending ∧ t.insts.length = s.insts.length ∧
    (∀ j, i.namedInst ≠ some j → t.insts[j]? = s.insts[j]?) ∧
    ((∀ k S, i ≠ .feed k S) → (∀ k prof, i ≠ .reset k prof) → t.insts = s.insts) ∧
    (∀ k S, i = .feed k S → t.insts.map Instance.profile = s.insts.map Instance.profile) ∧
    (∀ d, destOf i = some d → SameOutside d s t) ∧
    (destOf i = none → t.out = s.out ∧ t.draws = s.draws)

/-- A status other than OK has the effects of its row of 60_exceptions R204 and no other. The overflow of a live
instance is such a status, BUFFER_OVERFLOW, and sets LEN to 0 and DEAD to 1; every other one leaves every instance
as it is. A failed encode writes no byte outside OUT[0..out_cap), every other failure writes none of OUT, and no
failure carries a frame. The counter of free values is the model's own (log 6). -/
def Obligations.FailuresHaveOnlyTheEffectsOfTheirStatus : Prop :=
  (∀ (k : Nat) (S : Span) (s : State) (inst : Instance),
    s.insts[k]? = some inst → inst.dead = false → s.params.cap < inst.len + S.length →
    ∃ (t : State) (r : Reply), exec (.feed k S) s = .next t ∧ t.reply = some r ∧ r.status = .bufferOverflow ∧
      t.insts = s.insts.set k { profile := inst.profile, buf := [], len := 0, dead := true }) ∧
  ∀ (i : Instr) (s t : State) (r : Reply), exec i s = .next t → t.reply = some r → r.status ≠ .ok →
    r.frames = [] ∧ t.params = s.params ∧ t.pending = s.pending ∧
    (¬OverflowingFeed i s → t.insts = s.insts) ∧
    (∀ d, destOf i = some d → SameOutside d s t) ∧
    (destOf i = none → t.out = s.out ∧ t.draws = s.draws)

/-- Operations take effect in the order the host issues them (20_memory R51): a step takes the oldest request alone
off the stream, and a request issued behind others changes nothing of the step that comes first.
The command stream is the model's choice (log 2). -/
def Obligations.RequestsTakeEffectInIssueOrder : Prop :=
  ∀ (s t : State) (x iss : Issue) (rest : List Issue),
    s.pending = iss :: rest → step s = .next t →
    t.pending = rest ∧ (s.issue x).pending = s.pending ++ [x] ∧ step (s.issue x) = .next (t.issue x)

/-! ### The CRC generator -/

/-- CRC16, opcode 0x01, answers OK with the CRC of its span and changes nothing else: 0xFFFF for the empty span,
then one crc_step for each byte (40_crc R90), which is eight iterations of the bit loop on numbers (R91). -/
def Obligations.Crc16CommandReturnsTheBitLoopCrc : Prop :=
  (∀ a : Operands, decode (.command 0x01#8 a) = .ok (.crc16 a.S)) ∧
  (∀ (S : Span) (s : State),
    exec (.crc16 S) s = onlyReply s { status := .ok, results := .crc (crc16 S) }) ∧
  crc16 [] = 0xFFFF#16 ∧
  (∀ (S : Span) (b : Byte), crc16 (S ++ [b]) = crcStep (crc16 S) b) ∧
  ∀ (c : Half) (b : Byte),
    (crcStep c b).toNat = (fun x => if x % 2 = 1 then (x / 2) ^^^ 0xA001 else x / 2)^[8] (c.toNat ^^^ b.toNat)

/-- The table form agrees with the bit loop for every register value and byte, and the printed table is
crc_step's loop started from each index (40_crc R92). -/
def Obligations.TableDrivenCrcAgreesWithTheBitLoop : Prop :=
  crcTable.length = 256 ∧
  (∀ i, i < 256 → crcTable[i]? = some (crcStep (BitVec.ofNat 16 i) 0#8)) ∧
  ∀ (c : Half) (b : Byte), crcStepTable c b = crcStep c b

/-- Changing one bit of a span changes its CRC16, and the check value of "123456789" is 0x4B37 (40_crc R93). -/
def Obligations.AnySingleBitChangeChangesTheCrc : Prop :=
  crc16 [0x31#8, 0x32#8, 0x33#8, 0x34#8, 0x35#8, 0x36#8, 0x37#8, 0x38#8, 0x39#8] = 0x4B37#16 ∧
  ∀ (S : Span) (i j : Nat), i < S.length → j < 8 → crc16 (flipBit S i j) ≠ crc16 S

/-! ### The frame encoder -/

/-- ENC_RC with a legal count and room for the frame (41_encoder R102): OK, frame_len = 7 + 2n, and OUT holds the
frame of 30_encoding R67; nothing else changes. -/
def Obligations.EncodeRemoteControlWritesItsFrame : Prop :=
  ∀ (prof : Profile) (r : RcInput) (d : Dest) (s : State),
    1 ≤ r.channelCount.toNat → r.channelCount.toNat ≤ 8 → 7 + 2 * r.channelCount.toNat ≤ d.cap →
    ∃ (t : State) (F : Span), exec (.encRc prof r d) s = .next t ∧ Wrote s t d F ∧
      F.length = 7 + 2 * r.channelCount.toNat ∧
      F = wireFrame 0x01#8 (r.channelCount ::
        ((List.finRange 8).filter fun i => i.val < r.channelCount.toNat).flatMap fun i =>
          [BitVec.ofNat 8 (r.channels[i].toNat % 256), BitVec.ofNat 8 (r.channels[i].toNat / 256)])

/-- ENC_TLM with room for 20 bytes (41_encoder R103, 30_encoding R68). -/
def Obligations.EncodeTelemetryWritesItsFrame : Prop :=
  ∀ (prof : Profile) (r : Tlm) (d : Dest) (s : State), 20 ≤ d.cap →
    ∃ (t : State) (F : Span), exec (.encTlm prof r d) s = .next t ∧ Wrote s t d F ∧ F.length = 20 ∧
      F = wireFrame 0x02#8
        [BitVec.ofNat 8 (r.voltageMv.toNat % 256), BitVec.ofNat 8 (r.voltageMv.toNat / 256),
         BitVec.ofNat 8 (r.currentMa.toNat % 256), BitVec.ofNat 8 (r.currentMa.toNat / 256),
         BitVec.ofNat 8 (r.roll.toNat % 256), BitVec.ofNat 8 (r.roll.toNat / 256),
         BitVec.ofNat 8 (r.pitch.toNat % 256), BitVec.ofNat 8 (r.pitch.toNat / 256),
         BitVec.ofNat 8 (r.yaw.toNat % 256), BitVec.ofNat 8 (r.yaw.toNat / 256),
         BitVec.ofNat 8 (r.altitudeCm.toNat % 256), BitVec.ofNat 8 (r.altitudeCm.toNat / 2 ^ 8 % 256),
         BitVec.ofNat 8 (r.altitudeCm.toNat / 2 ^ 16 % 256), BitVec.ofNat 8 (r.altitudeCm.toNat / 2 ^ 24)]

/-- ENC_HB with room for 7 bytes (41_encoder R104): any device_status is encoded unchanged. -/
def Obligations.EncodeHeartbeatWritesItsFrame : Prop :=
  ∀ (prof : Profile) (st : Byte) (d : Dest) (s : State), 7 ≤ d.cap →
    ∃ (t : State) (F : Span), exec (.encHb prof st d) s = .next t ∧ Wrote s t d F ∧ F.length = 7 ∧
      F = wireFrame 0x03#8 [st]

/-- ENC_EXT with a legal length and room for the frame (41_encoder R105, 30_encoding R70). -/
def Obligations.EncodeExtendedCommandWritesItsFrame : Prop :=
  ∀ (prof : Profile) (r : ExtInput) (d : Dest) (s : State),
    r.paramLen.toNat ≤ 32 → 8 + r.paramLen.toNat ≤ d.cap →
    ∃ (t : State) (F : Span), exec (.encExt prof r d) s = .next t ∧ Wrote s t d F ∧
      F.length = 8 + r.paramLen.toNat ∧
      F = wireFrame 0x04#8 (r.cmdId :: r.paramLen ::
        ((List.finRange 32).filter fun j => j.val < r.paramLen.toNat).map fun j => r.params[j])

/-- The failures of the encodes, in the order of 60_exceptions R206, each with the effects of 41_encoder R106. -/
def Obligations.EncodeFailuresFollowThePriorityOrder : Prop :=
  (∀ (prof : Profile) (r : RcInput) (d : Dest) (s : State),
    ((r.channelCount.toNat = 0 ∨ 9 ≤ r.channelCount.toNat) →
      ∃ t, exec (.encRc prof r d) s = .next t ∧ FailedEncode s t d .invalidChannelCount) ∧
    (1 ≤ r.channelCount.toNat → r.channelCount.toNat ≤ 8 → d.cap < 7 + 2 * r.channelCount.toNat →
      ∃ t, exec (.encRc prof r d) s = .next t ∧ FailedEncode s t d .bufferTooSmall)) ∧
  (∀ (prof : Profile) (r : ExtInput) (d : Dest) (s : State),
    32 < r.paramLen.toNat ∨ d.cap < 8 + r.paramLen.toNat →
      ∃ t, exec (.encExt prof r d) s = .next t ∧ FailedEncode s t d .bufferTooSmall) ∧
  (∀ (prof : Profile) (r : Tlm) (d : Dest) (s : State), d.cap < 20 →
      ∃ t, exec (.encTlm prof r d) s = .next t ∧ FailedEncode s t d .bufferTooSmall) ∧
  ∀ (prof : Profile) (st : Byte) (d : Dest) (s : State), d.cap < 7 →
      ∃ t, exec (.encHb prof st d) s = .next t ∧ FailedEncode s t d .bufferTooSmall

/-- Round trip (41_encoder R107): DECODE of the bytes an OK encode wrote gives the type code, crc_ok, every
encoded field, zero array entries beyond the count, and consumed = frame_len. -/
def Obligations.DecodingAnEncodedFrameGivesItsFieldsBack : Prop :=
  ∀ (prof : Profile) (d : Dest) (s t u : State) (n : Nat) (F : Span),
    t.reply = some { status := .ok, results := .frameLen n } →
    Memory.readSpan t.out d.base n = some F →
    (∀ r : RcInput, exec (.encRc prof r d) s = .next t →
      exec (.decode prof F) u = onlyReply u (okDecoded 0x01#8 true (.rc {
        channelCount := r.channelCount,
        channels := Vector.ofFn fun i => if i.val < r.channelCount.toNat then r.channels[i] else 0#16 }) n)) ∧
    (∀ r : Tlm, exec (.encTlm prof r d) s = .next t →
      exec (.decode prof F) u = onlyReply u (okDecoded 0x02#8 true (.tlm r) n)) ∧
    (∀ st : Byte, exec (.encHb prof st d) s = .next t →
      exec (.decode prof F) u = onlyReply u (okDecoded 0x03#8 true (.hb st) n)) ∧
    ∀ r : ExtInput, exec (.encExt prof r d) s = .next t →
      exec (.decode prof F) u = onlyReply u (okDecoded 0x04#8 true (.ext {
        cmdId := r.cmdId,
        paramLen := r.paramLen,
        params := Vector.ofFn fun j => if j.val < r.paramLen.toNat then r.params[j] else 0#8 }) n)

/-- The same inputs encode to the same bytes and results under both profiles (41_encoder R108). -/
def Obligations.EncodersDoNotDependOnTheProfile : Prop :=
  ∀ (p q : Profile) (d : Dest) (s : State),
    (∀ r, exec (.encRc p r d) s = exec (.encRc q r d) s) ∧
    (∀ r, exec (.encTlm p r d) s = exec (.encTlm q r d) s) ∧
    (∀ st, exec (.encHb p st d) s = exec (.encHb q st d) s) ∧
    ∀ r, exec (.encExt p r d) s = exec (.encExt q r d) s

/-! ### The frame decoder -/

/-- DECODE tests its causes in the order of 60_exceptions R205 (42_decoder R130). On a structurally complete frame
with length byte L it returns OK, type byte S[3], consumed L + 5, and crc_ok exactly when the CRC over
S[2..3+L) is the received one, low byte first (R131); nothing but the reply changes. -/
def Obligations.DecodeTestsItsCausesInOrder : Prop :=
  ∀ (prof : Profile) (S : Span) (s : State),
    ∃ r : Reply, exec (.decode prof S) s = onlyReply s r ∧
      (S.length < 2 → r = statusOnly .incomplete) ∧
      (2 ≤ S.length → (S.getD 0 0#8 ≠ 0xAA#8 ∨ S.getD 1 0#8 ≠ 0x55#8) → r = statusOnly .invalidHeader) ∧
      (S.length = 2 → S.getD 0 0#8 = 0xAA#8 → S.getD 1 0#8 = 0x55#8 → r = statusOnly .incomplete) ∧
      (3 ≤ S.length → S.getD 0 0#8 = 0xAA#8 → S.getD 1 0#8 = 0x55#8 → S.getD 2 0#8 = 0#8 →
        r = statusOnly .invalidHeader) ∧
      (3 ≤ S.length → S.getD 0 0#8 = 0xAA#8 → S.getD 1 0#8 = 0x55#8 → S.getD 2 0#8 ≠ 0#8 →
        S.length < (S.getD 2 0#8).toNat + 5 → r = statusOnly .incomplete) ∧
      ∀ L, CompleteFrame S L → ∃ p : Payload,
        r = okDecoded (S.getD 3 0#8)
          (decide ((crc16 ((S.drop 2).take (L + 1))).toNat =
            (S.getD (3 + L) 0#8).toNat + 256 * (S.getD (4 + L) 0#8).toNat))
          p (L + 5)

/-- A complete frame of type 0x01 parses as 42_decoder R133 says: the declared count clamped to 8 and to the whole
channels present, each channel little-endian, the other entries 0. -/
def Obligations.DecodeParsesRemoteControl : Prop :=
  ∀ (prof : Profile) (S : Span) (L : Nat) (s : State), CompleteFrame S L → S.getD 3 0#8 = 0x01#8 →
    ∃ (ok : Bool) (p : RcPayload),
      exec (.decode prof S) s = onlyReply s (okDecoded 0x01#8 ok (.rc p) (L + 5)) ∧
      p.channelCount.toNat =
        min (payloadByte S L 0).toNat (min 8 (if 1 ≤ L - 1 then (L - 1 - 1) / 2 else 0)) ∧
      ∀ i : Fin 8, p.channels[i].toNat =
        if i.val < p.channelCount.toNat then
          (payloadByte S L (1 + 2 * i.val)).toNat + 256 * (payloadByte S L (2 + 2 * i.val)).toNat
        else 0

/-- A complete frame of type 0x02 parses as 42_decoder R134 says: little-endian fields, missing bytes 0, and
roll, pitch, yaw and altitude_cm as two's-complement integers. -/
def Obligations.DecodeParsesTelemetry : Prop :=
  ∀ (prof : Profile) (S : Span) (L : Nat) (s : State), CompleteFrame S L → S.getD 3 0#8 = 0x02#8 →
    ∃ (ok : Bool) (p : Tlm),
      exec (.decode prof S) s = onlyReply s (okDecoded 0x02#8 ok (.tlm p) (L + 5)) ∧
      p.voltageMv.toNat = (payloadByte S L 0).toNat + 256 * (payloadByte S L 1).toNat ∧
      p.currentMa.toNat = (payloadByte S L 2).toNat + 256 * (payloadByte S L 3).toNat ∧
      p.roll.toInt = Int.bmod ((payloadByte S L 4).toNat + 256 * (payloadByte S L 5).toNat) (2 ^ 16) ∧
      p.pitch.toInt = Int.bmod ((payloadByte S L 6).toNat + 256 * (payloadByte S L 7).toNat) (2 ^ 16) ∧
      p.yaw.toInt = Int.bmod ((payloadByte S L 8).toNat + 256 * (payloadByte S L 9).toNat) (2 ^ 16) ∧
      p.altitudeCm.toInt = Int.bmod ((payloadByte S L 10).toNat + 2 ^ 8 * (payloadByte S L 11).toNat +
        2 ^ 16 * (payloadByte S L 12).toNat + 2 ^ 24 * (payloadByte S L 13).toNat) (2 ^ 32)

/-- A complete frame of type 0x03 parses as 42_decoder R135 says, and one of type 0x04 as R136 says. -/
def Obligations.DecodeParsesHeartbeatAndExtendedCommand : Prop :=
  ∀ (prof : Profile) (S : Span) (L : Nat) (s : State), CompleteFrame S L →
    (S.getD 3 0#8 = 0x03#8 → ∃ ok : Bool,
      exec (.decode prof S) s = onlyReply s (okDecoded 0x03#8 ok (.hb (payloadByte S L 0)) (L + 5))) ∧
    (S.getD 3 0#8 = 0x04#8 → ∃ (ok : Bool) (p : ExtPayload),
      exec (.decode prof S) s = onlyReply s (okDecoded 0x04#8 ok (.ext p) (L + 5)) ∧
      p.cmdId = payloadByte S L 0 ∧
      p.paramLen.toNat = min (payloadByte S L 1).toNat (min 32 (if 2 ≤ L - 1 then L - 1 - 2 else 0)) ∧
      ∀ j : Fin 32, p.params[j] = if j.val < p.paramLen.toNat then payloadByte S L (2 + j.val) else 0#8)

/-- A complete frame of any other type parses as 42_decoder R137 says: all L - 1 payload bytes, then zeros. -/
def Obligations.DecodeKeepsUnknownTypesRaw : Prop :=
  ∀ (prof : Profile) (S : Span) (L : Nat) (s : State), CompleteFrame S L →
    S.getD 3 0#8 ≠ 0x01#8 → S.getD 3 0#8 ≠ 0x02#8 → S.getD 3 0#8 ≠ 0x03#8 → S.getD 3 0#8 ≠ 0x04#8 →
    ∃ (ok : Bool) (p : RawPayload),
      exec (.decode prof S) s = onlyReply s (okDecoded (S.getD 3 0#8) ok (.raw p) (L + 5)) ∧
      p.rawLen.toNat = L - 1 ∧ ∀ j : Fin 254, p.raw[j] = payloadByte S L j.val

/-- The FRAME rows (30_encoding R81): each well-formed one answers as DECODE does for its case, and changes nothing
else. Running a FRAME row as an instruction is the model's choice (log 3); ill-formed terms stand for no frame (log 16)
and are not spoken of. -/
def Obligations.FrameRowsAnswerTheirDispatchCase : Prop :=
  ∀ (f : FrameFields) (t b0 b1 : Byte) (s : State),
    exec .invalidLen0 s = onlyReply s (statusOnly .invalidHeader) ∧
    ((Instr.badSync b0 b1).wf = true → exec (.badSync b0 b1) s = onlyReply s (statusOnly .invalidHeader)) ∧
    ((Instr.frameRc f).wf = true → exec (.frameRc f) s = onlyReply s (okDecoded 0x01#8
      (crc16 (f.len :: 0x01#8 :: f.payload) == f.rxCrc) (.rc (parseRc f.payload)) (f.len.toNat + 5))) ∧
    ((Instr.frameTlm f).wf = true → exec (.frameTlm f) s = onlyReply s (okDecoded 0x02#8
      (crc16 (f.len :: 0x02#8 :: f.payload) == f.rxCrc) (.tlm (parseTlm f.payload)) (f.len.toNat + 5))) ∧
    ((Instr.frameHb f).wf = true → exec (.frameHb f) s = onlyReply s (okDecoded 0x03#8
      (crc16 (f.len :: 0x03#8 :: f.payload) == f.rxCrc) (.hb (parseHb f.payload)) (f.len.toNat + 5))) ∧
    ((Instr.frameExt f).wf = true → exec (.frameExt f) s = onlyReply s (okDecoded 0x04#8
      (crc16 (f.len :: 0x04#8 :: f.payload) == f.rxCrc) (.ext (parseExt f.payload)) (f.len.toNat + 5))) ∧
    ((Instr.frameRaw t f).wf = true → exec (.frameRaw t f) s = onlyReply s (okDecoded t
      (crc16 (f.len :: t :: f.payload) == f.rxCrc) (.raw (parseRaw f.payload)) (f.len.toNat + 5)))

/-- DECODE of a span runs the FRAME row the span selects (30_encoding R80, R81), and is INCOMPLETE where the span
selects none.
The FRAME rows as instructions are the model's choice (log 3). -/
def Obligations.DecodeRunsTheRowItsSpanSelects : Prop :=
  ∀ (prof : Profile) (S : Span) (s : State),
    (∀ i, decode (.span prof S) = .ok i → exec (.decode prof S) s = exec i s) ∧
    (∀ r, decode (.span prof S) = .error r →
      exec (.decode prof S) s = onlyReply s (statusOnly .incomplete))

/-- DECODE reads only the prefix it needs (42_decoder R138): its OK result is fixed by the frame, its
INVALID_HEADER by two or three bytes, more bytes change neither, and it is INCOMPLETE exactly when the span is too
short, at most 259 bytes. -/
def Obligations.DecodeReadsOnlyThePrefixItNeeds : Prop :=
  ∀ (prof : Profile) (S T : Span),
    (∀ F c, decodeSpan prof S = .ok (.ok F c) →
      c ≤ S.length ∧ decodeSpan prof (S.take c) = .ok (.ok F c) ∧
      decodeSpan prof (S ++ T) = .ok (.ok F c)) ∧
    (decodeSpan prof S = .ok .invalidHeader →
      (decodeSpan prof (S.take 2) = .ok .invalidHeader ∨ decodeSpan prof (S.take 3) = .ok .invalidHeader) ∧
      decodeSpan prof (S ++ T) = .ok .invalidHeader) ∧
    (decodeSpan prof S = .ok .incomplete → S.length ≤ 259) ∧
    (decodeSpan prof S = .ok .incomplete ↔
      S.length < 2 ∨
      (S.getD 0 0#8 = 0xAA#8 ∧ S.getD 1 0#8 = 0x55#8 ∧ S.length < 3) ∨
      (S.getD 0 0#8 = 0xAA#8 ∧ S.getD 1 0#8 = 0x55#8 ∧ 3 ≤ S.length ∧ 1 ≤ (S.getD 2 0#8).toNat ∧
        S.length < (S.getD 2 0#8).toNat + 5))

/-- DECODE reads and writes no instance state: its answer is the same in every state and under both profiles,
and only the reply changes (42_decoder R139). -/
def Obligations.DecodeDependsOnItsSpanAlone : Prop :=
  ∀ S : Span, ∃ r : Reply, ∀ (prof : Profile) (s : State),
    exec (.decode prof S) s = onlyReply s r

/-- One flipped bit outside the length byte, of a frame that decodes whole with crc_ok = true (42_decoder R140 (a)
and (b)): in a header byte it gives INVALID_HEADER, in the type byte, the payload or the CRC the same consumed with
crc_ok = false. Of a bit of the length byte R140 (c) guarantees nothing, and nothing is said. -/
def Obligations.OneFlippedBitOutsideTheLengthByteIsDetected : Prop :=
  ∀ (prof : Profile) (S : Span) (F : ParsedFrame) (i j : Nat),
    decodeSpan prof S = .ok (.ok F S.length) → F.crcOk = true → i < S.length → j < 8 →
    (i < 2 → decodeSpan prof (flipBit S i j) = .ok .invalidHeader) ∧
    (3 ≤ i → ∃ G : ParsedFrame,
      decodeSpan prof (flipBit S i j) = .ok (.ok G S.length) ∧ G.crcOk = false)

/-! ### The stream reassembler -/

/-- FEED on a dead instance appends nothing, emits nothing, changes nothing and returns BUFFER_OVERFLOW, and only
RESET of that instance changes a dead instance (43_reassembler R165). -/
def Obligations.DeadInstanceStaysDeadUntilReset : Prop :=
  (∀ (k : Nat) (S : Span) (s : State) (inst : Instance), s.insts[k]? = some inst → inst.dead = true →
    exec (.feed k S) s = onlyReply s { status := .bufferOverflow, results := .frames [] }) ∧
  ∀ (i : Instr) (k : Nat) (s t : State) (inst : Instance), s.insts[k]? = some inst → inst.dead = true →
    (∀ prof, i ≠ .reset k prof) → exec i s = .next t → t.insts[k]? = some inst

/-- A chunk that would take LEN past CAP appends nothing, drops the held bytes, sets DEAD, emits nothing and
returns BUFFER_OVERFLOW (43_reassembler R161). -/
def Obligations.OverflowDropsTheBufferAndSetsDead : Prop :=
  ∀ (k : Nat) (S : Span) (s : State) (inst : Instance),
    s.insts[k]? = some inst → inst.dead = false → s.params.cap < inst.len + S.length →
    exec (.feed k S) s = onlyInst s k { profile := inst.profile, buf := [], len := 0, dead := true }
      { status := .bufferOverflow, results := .frames [] }

/-- FEED of a chunk that fits appends it, runs the decode loop to its fixed point and compacts: the emitted frames
and the bytes left are those of the stream H ++ S (43_reassembler R160, R162, R163, R164). -/
def Obligations.FeedRunsTheStreamToItsFixedPoint : Prop :=
  ∀ (k : Nat) (S H : Span) (s : State) (inst : Instance),
    s.insts[k]? = some inst → inst.dead = false → inst.Holds H → H.length + S.length ≤ s.params.cap →
    ∃ (fs : List ParsedFrame) (R : Span), Stream inst.profile (H ++ S) fs R ∧
      exec (.feed k S) s = onlyInst s k
        { profile := inst.profile, buf := Memory.ofSpan R, len := R.length, dead := false } (okFrames fs)

/-- A stream has exactly one run: there is one, its frames and its rest are determined, the rest is a suffix of the
stream, and the rest decodes INCOMPLETE (43_reassembler R162, R166). -/
def Obligations.StreamRunIsUnique : Prop :=
  (∀ (prof : Profile) (B : Span), ∃ (fs : List ParsedFrame) (R : Span), Stream prof B fs R) ∧
  ∀ (prof : Profile) (B R R' : Span) (fs fs' : List ParsedFrame),
    Stream prof B fs R → Stream prof B fs' R' →
    fs = fs' ∧ R = R' ∧ R <:+ B ∧ decodeSpan prof R = .ok .incomplete

/-- The decode loop ends within |B| + 1 DECODE calls at a cursor within the buffer, where DECODE is INCOMPLETE; more
calls would change nothing (43_reassembler R166).
The fuel argument is the model's (log 11). -/
def Obligations.DecodeLoopEndsWithinItsBound : Prop :=
  ∀ (prof : Profile) (B : Span), ∃ (cur : Nat) (fs : List ParsedFrame),
    cur ≤ B.length ∧ decodeSpan prof (B.drop cur) = .ok .incomplete ∧
    ∀ fuel, B.length + 1 ≤ fuel → decodeLoop prof B fuel 0 [] = .ok (cur, fs)

/-- Chunking does not matter (43_reassembler R167): a stream fed to a live instance in any two ways of cutting it,
neither overflowing, gives the same frames in the same order and the same final instance. -/
def Obligations.ChunkingDoesNotMatter : Prop :=
  ∀ (k : Nat) (s t u : State) (inst : Instance) (Ss Ts : List Span) (fs gs : List ParsedFrame),
    s.Inv → s.insts[k]? = some inst → inst.dead = false → Ss.flatten = Ts.flatten →
    runFeeds k s Ss = some (t, fs) → runFeeds k s Ts = some (u, gs) →
    fs = gs ∧ t.insts = u.insts

/-- Resynchronisation (43_reassembler R168): garbage with no adjacent pair AA 55 before one complete frame is
skipped byte by byte, exactly that frame is emitted, and nothing is held. -/
def Obligations.GarbageBeforeAFrameIsSkipped : Prop :=
  ∀ (k : Nat) (prof : Profile) (s : State) (G W : Span) (F : ParsedFrame),
    s.insts[k]? = some (Instance.fresh prof) →
    decodeSpan prof W = .ok (.ok F W.length) →
    (∀ i, i + 1 < G.length → ¬(G.getD i 0#8 = 0xAA#8 ∧ G.getD (i + 1) 0#8 = 0x55#8)) →
    G.length + W.length ≤ s.params.cap →
    (∀ i, i < G.length → decodeSpan prof ((G ++ W).drop i) = .ok .invalidHeader) ∧
    exec (.feed k (G ++ W)) s = onlyReply s (okFrames [F])

/-- A zero-length FEED on a live instance emits nothing and changes no state (43_reassembler R169). -/
def Obligations.ZeroLengthFeedChangesNothing : Prop :=
  ∀ (k : Nat) (s : State) (inst : Instance), s.Inv → s.insts[k]? = some inst → inst.dead = false →
    exec (.feed k []) s = onlyReply s (okFrames [])

/-- A false header (43_reassembler R170): held bytes that begin AA 55 L, L ≥ 1, are kept and nothing is emitted
until L + 5 bytes are there; then the first emitted frame takes all L + 5 of them. -/
def Obligations.AHeaderHoldsBackWhatFollowsIt : Prop :=
  ∀ (k : Nat) (S H : Span) (s t : State) (inst : Instance),
    s.insts[k]? = some inst → inst.dead = false → inst.Holds H → H.length + S.length ≤ s.params.cap →
    3 ≤ (H ++ S).length → (H ++ S).getD 0 0#8 = 0xAA#8 → (H ++ S).getD 1 0#8 = 0x55#8 →
    1 ≤ ((H ++ S).getD 2 0#8).toNat → exec (.feed k S) s = .next t →
    ((H ++ S).length < ((H ++ S).getD 2 0#8).toNat + 5 →
      t.reply = some (okFrames []) ∧
      ∃ inst', t.insts[k]? = some inst' ∧ inst'.Holds (H ++ S)) ∧
    (((H ++ S).getD 2 0#8).toNat + 5 ≤ (H ++ S).length →
      ∃ (F : ParsedFrame) (fs : List ParsedFrame) (R : Span) (inst' : Instance),
        decodeSpan inst.profile (H ++ S) = .ok (.ok F (((H ++ S).getD 2 0#8).toNat + 5)) ∧
        Stream inst.profile ((H ++ S).drop (((H ++ S).getD 2 0#8).toNat + 5)) fs R ∧
        t.reply = some (okFrames (F :: fs)) ∧
        t.insts[k]? = some inst' ∧ inst'.Holds R)

/-- PROFILE and DEAD change only as 10_state R23 and R24 say: PROFILE by RESET alone, to its operand; DEAD is set by
an overflowing FEED alone and cleared by RESET alone. -/
def Obligations.ProfileAndDeadChangeOnlyByTheirCommands : Prop :=
  ∀ (i : Instr) (k : Nat) (s t : State) (a b : Instance), exec i s = .next t →
    s.insts[k]? = some a → t.insts[k]? = some b →
    (a.profile ≠ b.profile → i = .reset k b.profile) ∧
    (a.dead = true → b.dead = false → i = .reset k b.profile) ∧
    (a.dead = false → b.dead = true → ∃ S, i = .feed k S ∧ s.params.cap < a.len + S.length)

/-- A chunk of at most CAP - 259 bytes, or of at most CAP - LEN bytes, never overflows a live instance, which holds
at most 259 bytes (70_reset_and_hazards R236, 10_state R35). -/
def Obligations.BoundedChunksNeverOverflow : Prop :=
  ∀ (k : Nat) (S : Span) (s : State) (inst : Instance), s.Inv → s.insts[k]? = some inst → inst.dead = false →
    inst.len ≤ 259 ∧
    (S.length ≤ s.params.cap - 259 ∨ S.length ≤ s.params.cap - inst.len →
      ∃ (t : State) (fs : List ParsedFrame), exec (.feed k S) s = .next t ∧
        t.reply = some (okFrames fs))

/-! ### Instance control -/

/-- RESET (44_control R180): always OK; PROFILE = prof, LEN = 0, DEAD = 0, BUF holds no value, nothing else
changes. -/
def Obligations.ResetLeavesAnEmptyLiveInstance : Prop :=
  ∀ (k : Nat) (prof : Profile) (s : State), k < s.insts.length →
    exec (.reset k prof) s =
      onlyInst s k { profile := prof, buf := [], len := 0, dead := false } (statusOnly .ok)

/-- RDSTAT, opcode 0x41 (44_control R182): always OK; STAT is LEN in [15:0], DEAD in [16], PROFILE in [17] and 0
above (10_state R33); no state changes, and it may be repeated, whatever the last reply is, with the same result. -/
def Obligations.RdstatReadsTheStatusWord : Prop :=
  (∀ a : Operands, decode (.command 0x41#8 a) = .ok (.rdstat a.k)) ∧
  ∀ (k : Nat) (s : State) (inst : Instance), s.insts[k]? = some inst →
    ∃ w : Word,
      (∀ q : Option Reply,
        exec (.rdstat k) { s with reply := q } = onlyReply s { status := .ok, results := .stat w }) ∧
      w.toNat = inst.len % 2 ^ 16 + 2 ^ 16 * (if inst.dead then 1 else 0) +
        2 ^ 17 * (if inst.profile = .B then 1 else 0)

/-- The pseudo-commands (30_encoding R79): DROP k is RESET with the instance's own profile, so it only empties the
instance; ENC expands for types 0x01 to 0x04 with the matching payload and for no other type.
Lines as typed data are the model's choice (log 17). -/
def Obligations.PseudoCommandsExpandAsWritten : Prop :=
  (∀ (k : Nat) (s : State) (inst : Instance), s.insts[k]? = some inst →
    ∃ i : Instr, (Pseudo.drop k).expand s = some i ∧ exec i s =
      onlyInst s k { profile := inst.profile, buf := [], len := 0, dead := false } (statusOnly .ok)) ∧
  (∀ (s : State) (prof : Profile) (r : RcInput) (q : Tlm) (st : Byte) (x : ExtInput) (d : Dest),
    (Pseudo.enc prof 0x01#8 (.rc r) d).expand s = some (.encRc prof r d) ∧
    (Pseudo.enc prof 0x02#8 (.tlm q) d).expand s = some (.encTlm prof q d) ∧
    (Pseudo.enc prof 0x03#8 (.hb st) d).expand s = some (.encHb prof st d) ∧
    (Pseudo.enc prof 0x04#8 (.ext x) d).expand s = some (.encExt prof x d)) ∧
  ∀ (s : State) (prof : Profile) (t : Byte) (x : EncInput) (d : Dest),
    t.toNat = 0 ∨ 5 ≤ t.toNat → (Pseudo.enc prof t x d).expand s = none

/-- Assembler lines (30_encoding R79): a channel list shorter than 8 and a parameter list shorter than 32 are padded
with 0, and the request a line assembles to decodes to the line's command.
Lines as typed data are the model's choice (log 17). -/
def Obligations.AssembledLinesDecodeToTheirCommand : Prop :=
  (∀ (s : State) (l : AsmLine) (i : Instr), l.instr s = some i →
    ∃ r : Request, l.assemble s = some r ∧ decode r = .ok i) ∧
  (∀ (s : State) (prof : Profile) (n : Byte) (cs : List Half) (d : Dest), cs.length ≤ 8 →
    ∃ v : Vector Half 8,
      (AsmLine.encRc prof n cs d).instr s = some (.encRc prof { channelCount := n, channels := v } d) ∧
      ∀ j : Fin 8, v[j] = if h : j.val < cs.length then cs[j.val] else 0#16) ∧
  ∀ (s : State) (prof : Profile) (id p : Byte) (qs : List Byte) (d : Dest), qs.length ≤ 32 →
    ∃ v : Vector Byte 32,
      (AsmLine.encExt prof id p qs d).instr s = some (.encExt prof { cmdId := id, paramLen := p, params := v } d) ∧
      ∀ j : Fin 32, v[j] = if h : j.val < qs.length then qs[j.val] else 0#8
end

