-- ==== Sys2Proof/Laws/Crc.lean ====
section
/-! SUPPORT. The small laws of the CRC generator (40_crc R90, R91). -/

namespace Sys2Proof.Machine

@[simp] theorem crc16_nil : crc16 [] = 0xFFFF#16 := rfl

/-- One more byte is one more crc_step. -/
theorem crc16_concat (S : Span) (b : Byte) : crc16 (S ++ [b]) = crcStep (crc16 S) b := by
  simp [crc16]

/-- The working register carries over from one part of a span to the next. -/
theorem crc16_append (S T : Span) : crc16 (S ++ T) = T.foldl crcStep (crc16 S) := by
  simp [crc16]

@[simp] theorem crcBits_zero (c : Half) : crcBits 0 c = c := rfl
@[simp] theorem crcBits_succ (n : Nat) (c : Half) : crcBits (n + 1) c = crcBits n (crcBit c) := rfl

end Sys2Proof.Machine
end

