-- ==== Sys2Proof/Laws/Decode.lean ====
section
/-! SUPPORT. What the decoder answers on a span, said once (42_decoder R130, 60_exceptions R205). -/

namespace Sys2Proof

open Sys2Proof.Machine

@[simp] theorem headerByte1_eq (prof : Profile) : headerByte1 prof = 0xAA#8 := by cases prof <;> rfl
@[simp] theorem headerByte2_eq (prof : Profile) : headerByte2 prof = 0x55#8 := by cases prof <;> rfl
@[simp] theorem header_eq (prof : Profile) : header prof = [0xAA#8, 0x55#8] := by simp [header]

/-- Two bytes at least and no sync pattern: the BAD_SYNC case. -/
theorem decodeFrame_badSync (prof : Profile) (b0 b1 : Byte) (S : Span) (h : b0 ≠ 0xAA#8 ∨ b1 ≠ 0x55#8) :
    decodeFrame prof (b0 :: b1 :: S) = .ok (.badSync b0 b1) := by
  simp only [decodeFrame, headerByte1_eq, headerByte2_eq, List.length_cons, List.getElem?_cons_zero,
    List.getElem?_cons_succ]
  rw [if_neg (by omega), if_pos h]

/-- Fewer than two bytes. -/
theorem decodeFrame_short (prof : Profile) (S : Span) (h : S.length < 2) :
    decodeFrame prof S = .error .incomplete := by
  simp [decodeFrame, h]

/-- The header alone. -/
theorem decodeFrame_header (prof : Profile) : decodeFrame prof [0xAA#8, 0x55#8] = .error .incomplete := by
  simp [decodeFrame]

/-- A header with length byte 0: the INVALID_LEN0 case. -/
theorem decodeFrame_len0 (prof : Profile) (S : Span) :
    decodeFrame prof (0xAA#8 :: 0x55#8 :: 0#8 :: S) = .ok .invalidLen0 := by
  simp [decodeFrame]

/-- A header and a length byte, but fewer than L + 5 bytes. -/
theorem decodeFrame_partial (prof : Profile) (L : Byte) (S : Span) (hL : L ≠ 0#8)
    (h : S.length < L.toNat + 2) :
    decodeFrame prof (0xAA#8 :: 0x55#8 :: L :: S) = .error .incomplete := by
  simp only [decodeFrame, headerByte1_eq, headerByte2_eq, List.length_cons, List.getElem?_cons_zero,
    List.getElem?_cons_succ, ne_eq, not_true_eq_false, or_self, if_false, hL]
  rw [if_neg (by omega), if_neg (by omega), if_pos (by omega)]

/-- A structurally complete frame gives the row of its type, with its payload and received CRC; what
follows it is not looked at. -/
theorem decodeFrame_complete (prof : Profile) (L t lo hi : Byte) (P rest : Span)
    (hL : L.toNat = P.length + 1) :
    decodeFrame prof (0xAA#8 :: 0x55#8 :: L :: t :: (P ++ lo :: hi :: rest)) =
      .ok (rowOfType t { len := L, payload := P, rxCrc := le16 lo hi }) := by
  have hL0 : L ≠ 0#8 := by rintro rfl; simp at hL
  simp only [decodeFrame, headerByte1_eq, headerByte2_eq, List.length_cons, List.getElem?_cons_zero,
    List.getElem?_cons_succ, ne_eq, not_true_eq_false, or_self, if_false, hL0, List.length_append]
  rw [if_neg (by omega), if_neg (by omega), if_neg (by omega)]
  have hP : memRead (0xAA#8 :: 0x55#8 :: L :: t :: (P ++ lo :: hi :: rest)) 4 (L.toNat - 1) = some P := by
    rw [memRead, if_pos (by simp; omega)]
    have : L.toNat - 1 = P.length := by omega
    simp [this]
  have hC : le16At (0xAA#8 :: 0x55#8 :: L :: t :: (P ++ lo :: hi :: rest)) (3 + L.toNat) = some (le16 lo hi) := by
    have e : 3 + L.toNat = P.length + 4 := by omega
    simp [le16At, e]
  simp only [decodeBody, List.getElem?_cons_succ, List.getElem?_cons_zero, hP, hC]

/-- The cases of a span, with its bytes named: everything DECODE can meet. -/
theorem span_cases (S : Span) :
    S.length < 2 ∨
    (∃ b0 b1 R, S = b0 :: b1 :: R ∧ (b0 ≠ 0xAA#8 ∨ b1 ≠ 0x55#8)) ∨
    S = [0xAA#8, 0x55#8] ∨
    (∃ R, S = 0xAA#8 :: 0x55#8 :: 0#8 :: R) ∨
    (∃ L R, S = 0xAA#8 :: 0x55#8 :: L :: R ∧ L ≠ 0#8 ∧ R.length < L.toNat + 2) ∨
    ∃ L t P lo hi R, S = 0xAA#8 :: 0x55#8 :: L :: t :: (P ++ lo :: hi :: R) ∧ L.toNat = P.length + 1 := by
  match S with
  | [] => left; simp
  | [_] => left; simp
  | b0 :: b1 :: R =>
    right
    by_cases h : b0 = 0xAA#8 ∧ b1 = 0x55#8
    · obtain ⟨rfl, rfl⟩ := h
      right
      match R with
      | [] => left; rfl
      | L :: R =>
        right
        by_cases hL : L = 0#8
        · subst hL; left; exact ⟨R, rfl⟩
        · right
          by_cases hlen : R.length < L.toNat + 2
          · left; exact ⟨L, R, rfl, hL, hlen⟩
          · right
            have hpos : 0 < L.toNat := by
              rcases Nat.eq_zero_or_pos L.toNat with h0 | h0
              · exact absurd (BitVec.eq_of_toNat_eq (by simpa using h0)) hL
              · exact h0
            match R, hlen with
            | [], hlen => simp at hlen
            | t :: R, hlen =>
              have hR : L.toNat + 1 ≤ R.length := by simp at hlen; omega
              refine ⟨L, t, R.take (L.toNat - 1), R[L.toNat - 1], R[L.toNat], R.drop (L.toNat + 1), ?_, ?_⟩
              · congr 4
                have e1 : R = R.take (L.toNat - 1) ++ R.drop (L.toNat - 1) := (List.take_append_drop _ _).symm
                have e2 : R.drop (L.toNat - 1) = R[L.toNat - 1] :: R.drop (L.toNat - 1 + 1) :=
                  List.drop_eq_getElem_cons (by omega)
                have e3 : L.toNat - 1 + 1 = L.toNat := by omega
                have e4 : R.drop L.toNat = R[L.toNat] :: R.drop (L.toNat + 1) :=
                  List.drop_eq_getElem_cons (by omega)
                rw [e3, e4] at e2
                rw [← e2]; exact e1
              · rw [List.length_take]; omega
    · left
      exact ⟨b0, b1, R, rfl, by tauto⟩

end Sys2Proof
end

