-- ==== Sys2Proof/Laws/Memory.lean ====
section
/-! SUPPORT. The laws of byte stores: what a read gives after a write, and that every operation keeps the
canonical form. -/

namespace Sys2Proof.Machine.Memory

@[simp] theorem read_nil (a : Nat) : read [] a = none := rfl

theorem read_cons (c : Host.Cell) (m : Memory) (a : Nat) :
    read (c :: m) a = if c.1 = a then some c.2 else read m a := rfl

@[simp] theorem wf_nil : wf [] = true := rfl

theorem wf_cons (c : Host.Cell) (m : Memory) :
    wf (c :: m) = true ↔ (∀ x ∈ m, c.1 < x.1) ∧ wf m = true := by
  simp [wf]

/-- An index below every listed one holds no value. -/
theorem read_none_of_lt {m : Memory} {a : Nat} (h : ∀ x ∈ m, a < x.1) : read m a = none := by
  induction m with
  | nil => rfl
  | cons c m ih =>
    have hc : c.1 ≠ a := by have := h c (by simp); omega
    rw [read_cons, if_neg hc]
    exact ih fun x hx => h x (by simp [hx])

/-- A read after a write to the same index gives the byte written; any other index is left alone. -/
theorem read_write (m : Memory) (a : Nat) (b : Byte) (a' : Nat) :
    read (write m a b) a' = if a' = a then some b else read m a' := by
  induction m with
  | nil => simp [write, read_cons, eq_comm]
  | cons c m ih =>
    obtain ⟨k, v⟩ := c
    rw [write]
    by_cases h1 : a < k
    · rw [if_pos h1, read_cons]
      by_cases h : a' = a
      · subst h; simp
      · rw [if_neg (fun e => h e.symm), if_neg h]
    · rw [if_neg h1]
      by_cases h2 : a = k
      · subst h2
        rw [if_pos rfl, read_cons]
        by_cases h : a' = a
        · subst h; simp
        · rw [if_neg (fun e => h e.symm), if_neg h, read_cons, if_neg (fun e => h e.symm)]
      · rw [if_neg h2, read_cons, ih]
        by_cases h : k = a'
        · subst h; simp [read_cons, Ne.symm h2]
        · rw [if_neg h, read_cons, if_neg h]

/-- Every cell of the written store is an old one or the new one. -/
theorem mem_write {m : Memory} {a : Nat} {b : Byte} {x : Host.Cell} (h : x ∈ write m a b) :
    x = (a, b) ∨ x ∈ m := by
  induction m with
  | nil => simpa [write] using h
  | cons c m ih =>
    obtain ⟨k, v⟩ := c
    rw [write] at h
    split_ifs at h
    · simpa using h
    · rcases List.mem_cons.1 h with h | h
      · exact .inl h
      · exact .inr (by simp [h])
    · rcases List.mem_cons.1 h with h | h
      · exact .inr (by simp [h])
      · rcases ih h with h | h
        · exact .inl h
        · exact .inr (by simp [h])

/-- A write keeps the canonical form. -/
theorem wf_write {m : Memory} (a : Nat) (b : Byte) (h : wf m = true) : wf (write m a b) = true := by
  induction m with
  | nil => rfl
  | cons c m ih =>
    obtain ⟨k, v⟩ := c
    obtain ⟨h1, h2⟩ := (wf_cons _ _).1 h
    rw [write]
    split_ifs with ha hk
    · refine (wf_cons _ _).2 ⟨fun x hx => ?_, h⟩
      rcases List.mem_cons.1 hx with rfl | hx
      · exact ha
      · exact lt_trans ha (h1 x hx)
    · subst hk; exact (wf_cons _ _).2 ⟨h1, h2⟩
    · refine (wf_cons _ _).2 ⟨fun x hx => ?_, ih h2⟩
      rcases mem_write hx with rfl | hx
      · show k < a; omega
      · exact h1 x hx

/-- Writing a span keeps the canonical form. -/
theorem wf_writeSpan {m : Memory} (a : Nat) (S : Span) (h : wf m = true) : wf (writeSpan m a S) = true := by
  induction S generalizing m a with
  | nil => exact h
  | cons b S ih => exact ih (a + 1) (wf_write a b h)

/-- The store of a span is canonical. -/
theorem wf_ofSpan (S : Span) : wf (ofSpan S) = true := wf_writeSpan 0 S rfl

/-- A read after writing a span: the span's byte inside it, the old content outside. -/
theorem read_writeSpan (m : Memory) (a : Nat) (S : Span) (a' : Nat) :
    read (writeSpan m a S) a' =
      if a ≤ a' ∧ a' < a + S.length then S[a' - a]? else read m a' := by
  induction S generalizing m a with
  | nil => simp only [writeSpan, List.length_nil]; rw [if_neg (by omega)]
  | cons b S ih =>
    rw [writeSpan, ih, read_write, List.length_cons]
    by_cases h0 : a' = a
    · subst h0
      rw [if_neg (by omega), if_pos rfl, if_pos (by omega)]
      simp
    · rw [if_neg h0]
      by_cases h1 : a + 1 ≤ a' ∧ a' < a + 1 + S.length
      · rw [if_pos h1, if_pos (by omega)]
        obtain ⟨n, rfl⟩ : ∃ n, a' = a + 1 + n := ⟨a' - (a + 1), by omega⟩
        have e1 : a + 1 + n - (a + 1) = n := by omega
        have e2 : a + 1 + n - a = n + 1 := by omega
        rw [e1, e2, List.getElem?_cons_succ]
      · rw [if_neg h1, if_neg (by omega)]

/-- The store of a span holds its bytes and nothing else. -/
theorem read_ofSpan (S : Span) (a : Nat) : read (ofSpan S) a = S[a]? := by
  rw [ofSpan, read_writeSpan]
  split_ifs with h
  · simp
  · rw [read_nil, List.getElem?_eq_none (by omega)]

/-- Reading n bytes gives a span exactly when each of them holds its byte. -/
theorem readSpan_eq_some {m : Memory} {a : Nat} {S : Span} (h : ∀ i, i < S.length → read m (a + i) = S[i]?) :
    readSpan m a S.length = some S := by
  induction S generalizing a with
  | nil => rfl
  | cons b S ih =>
    have h0 := h 0 (by simp)
    have h1 : readSpan m (a + 1) S.length = some S := by
      refine ih fun i hi => ?_
      have := h (i + 1) (by simpa using hi)
      rw [List.getElem?_cons_succ] at this
      rw [← this]; congr 1; omega
    simp only [Nat.add_zero, List.getElem?_cons_zero] at h0
    simp only [List.length_cons, readSpan, h0, h1]

/-- Reading back a span just written. -/
theorem readSpan_writeSpan (m : Memory) (a : Nat) (S : Span) :
    readSpan (writeSpan m a S) a S.length = some S := by
  refine readSpan_eq_some fun i hi => ?_
  rw [read_writeSpan, if_pos (by omega)]
  congr 1; omega

/-- Two canonical stores that read alike are equal. -/
theorem ext_of_wf {m m' : Memory} (h : wf m = true) (h' : wf m' = true) (e : ∀ a, read m a = read m' a) :
    m = m' := by
  induction m generalizing m' with
  | nil =>
    cases m' with
    | nil => rfl
    | cons c m' => have := e c.1; simp [read_cons] at this
  | cons c m ih =>
    obtain ⟨k, v⟩ := c
    obtain ⟨h1, h2⟩ := (wf_cons _ _).1 h
    cases m' with
    | nil => have := e k; simp [read_cons] at this
    | cons c' m' =>
      obtain ⟨k', v'⟩ := c'
      obtain ⟨h1', h2'⟩ := (wf_cons _ _).1 h'
      have hk : k = k' := by
        rcases Nat.lt_trichotomy k k' with hlt | heq | hgt
        · have := e k
          rw [read_cons, if_pos rfl, read_none_of_lt] at this
          · simp at this
          · intro x hx
            rcases List.mem_cons.1 hx with rfl | hx
            · exact hlt
            · exact lt_trans hlt (h1' x hx)
        · exact heq
        · have := e k'
          rw [read_cons (a := k') (c := (k', v')), if_pos rfl, read_none_of_lt] at this
          · simp at this
          · intro x hx
            rcases List.mem_cons.1 hx with rfl | hx
            · exact hgt
            · exact lt_trans hgt (h1 x hx)
      subst hk
      have hv : v = v' := by have := e k; simpa [read_cons] using this
      subst hv
      congr 1
      refine ih h2 h2' fun a => ?_
      have := e a
      simp only [read_cons] at this
      by_cases ha : k = a
      · subst ha; rw [read_none_of_lt h1, read_none_of_lt h1']
      · rwa [if_neg ha, if_neg ha] at this

/-- Appending a span to the store of another gives the store of both. -/
theorem writeSpan_ofSpan (H S : Span) : writeSpan (ofSpan H) H.length S = ofSpan (H ++ S) := by
  refine ext_of_wf (wf_writeSpan _ _ (wf_ofSpan H)) (wf_ofSpan _) fun a => ?_
  rw [read_writeSpan, read_ofSpan, read_ofSpan]
  split_ifs with h
  · rw [List.getElem?_append_right h.1]
  · by_cases h' : a < H.length
    · rw [List.getElem?_append_left h']
    · rw [List.getElem?_eq_none (by omega), List.getElem?_eq_none (by simp; omega)]

/-- Reading all of the store of a span gives the span. -/
theorem readSpan_ofSpan (S : Span) : readSpan (ofSpan S) 0 S.length = some S :=
  readSpan_eq_some fun i _ => by rw [Nat.zero_add, read_ofSpan]

end Sys2Proof.Machine.Memory
end

