-- ==== Sys2Proof/Laws/State.lean ====
section
/-! SUPPORT. One lemma per field of State for each of its updates, and the same for Instance. -/

namespace Sys2Proof.Machine

section answer
variable (s : State) (r : Reply)
@[simp] theorem State.answer_params : (s.answer r).params = s.params := rfl
@[simp] theorem State.answer_insts : (s.answer r).insts = s.insts := rfl
@[simp] theorem State.answer_out : (s.answer r).out = s.out := rfl
@[simp] theorem State.answer_pending : (s.answer r).pending = s.pending := rfl
@[simp] theorem State.answer_reply : (s.answer r).reply = some r := rfl
@[simp] theorem State.answer_draws : (s.answer r).draws = s.draws := rfl
end answer

section setInst
variable (s : State) (k : Nat) (inst : Instance)
@[simp] theorem State.setInst_params : (s.setInst k inst).params = s.params := rfl
@[simp] theorem State.setInst_insts : (s.setInst k inst).insts = s.insts.set k inst := rfl
@[simp] theorem State.setInst_out : (s.setInst k inst).out = s.out := rfl
@[simp] theorem State.setInst_pending : (s.setInst k inst).pending = s.pending := rfl
@[simp] theorem State.setInst_reply : (s.setInst k inst).reply = s.reply := rfl
@[simp] theorem State.setInst_draws : (s.setInst k inst).draws = s.draws := rfl
end setInst

section failEncode
variable (s : State) (d : Dest) (st : Status)
@[simp] theorem State.failEncode_params : (s.failEncode d st).params = s.params := rfl
@[simp] theorem State.failEncode_insts : (s.failEncode d st).insts = s.insts := rfl
@[simp] theorem State.failEncode_out :
    (s.failEncode d st).out = Memory.writeSpan s.out d.base (freeSpan s.draws d.cap) := rfl
@[simp] theorem State.failEncode_pending : (s.failEncode d st).pending = s.pending := rfl
@[simp] theorem State.failEncode_reply :
    (s.failEncode d st).reply = some { status := st, results := .nothing } := rfl
@[simp] theorem State.failEncode_draws : (s.failEncode d st).draws = s.draws + 1 := rfl
end failEncode

section issueNext
variable (s : State) (iss : Issue)
@[simp] theorem State.issueNext_params : (s.issueNext iss).params = s.params := rfl
@[simp] theorem State.issueNext_insts : (s.issueNext iss).insts = s.insts := rfl
@[simp] theorem State.issueNext_out : (s.issueNext iss).out = s.out := rfl
@[simp] theorem State.issueNext_pending : (s.issueNext iss).pending = iss :: s.pending := rfl
@[simp] theorem State.issueNext_reply : (s.issueNext iss).reply = s.reply := rfl
@[simp] theorem State.issueNext_draws : (s.issueNext iss).draws = s.draws := rfl
end issueNext

section issue
variable (s : State) (iss : Issue)
@[simp] theorem State.issue_params : (s.issue iss).params = s.params := rfl
@[simp] theorem State.issue_insts : (s.issue iss).insts = s.insts := rfl
@[simp] theorem State.issue_out : (s.issue iss).out = s.out := rfl
@[simp] theorem State.issue_pending : (s.issue iss).pending = s.pending ++ [iss] := rfl
@[simp] theorem State.issue_reply : (s.issue iss).reply = s.reply := rfl
@[simp] theorem State.issue_draws : (s.issue iss).draws = s.draws := rfl
end issue

section powerOn
variable (p : Params)
@[simp] theorem State.powerOn_params : (State.powerOn p).params = p := rfl
@[simp] theorem State.powerOn_insts :
    (State.powerOn p).insts = List.replicate p.numInst (Instance.fresh p.profilePor) := rfl
@[simp] theorem State.powerOn_out : (State.powerOn p).out = [] := rfl
@[simp] theorem State.powerOn_pending : (State.powerOn p).pending = [] := rfl
@[simp] theorem State.powerOn_reply : (State.powerOn p).reply = none := rfl
@[simp] theorem State.powerOn_draws : (State.powerOn p).draws = 0 := rfl
end powerOn

section fresh
variable (prof : Profile)
@[simp] theorem Instance.fresh_profile : (Instance.fresh prof).profile = prof := rfl
@[simp] theorem Instance.fresh_buf : (Instance.fresh prof).buf = [] := rfl
@[simp] theorem Instance.fresh_len : (Instance.fresh prof).len = 0 := rfl
@[simp] theorem Instance.fresh_dead : (Instance.fresh prof).dead = false := rfl
end fresh

/-- Fetching takes the oldest request and leaves the rest. -/
@[simp] theorem fetch_cons (s : State) (iss : Issue) (rest : List Issue) (h : s.pending = iss :: rest) :
    fetch s = some (iss, { s with pending := rest }) := by
  unfold fetch; rw [h]

/-- Nothing issued, nothing fetched. -/
@[simp] theorem fetch_nil (s : State) (h : s.pending = []) : fetch s = none := by
  unfold fetch; rw [h]

end Sys2Proof.Machine
end

