-- ==== Sys2Proof/Laws/Exec.lean ====
section
/-! SUPPORT. For each shared operation of the meanings, one lemma that says everything it can answer. -/

namespace Sys2Proof.Machine

/-- A command of an instance that does not exist is refused, otherwise it runs on that instance. -/
theorem onInst_cases (s : State) (k : Nat) (f : Instance → Host.Outcome State Fault Refusal) :
    (s.insts[k]? = none ∧ s.onInst k f = .refused (.noSuchInstance k)) ∨
    ∃ inst, s.insts[k]? = some inst ∧ s.onInst k f = f inst := by
  unfold State.onInst
  cases h : s.insts[k]? with
  | none => exact .inl ⟨rfl, rfl⟩
  | some inst => exact .inr ⟨inst, rfl, rfl⟩

theorem onInst_some {s : State} {k : Nat} {inst : Instance} (h : s.insts[k]? = some inst)
    (f : Instance → Host.Outcome State Fault Refusal) : s.onInst k f = f inst := by
  unfold State.onInst; rw [h]

/-- MemWrite inside OUT is a write of the span at its place (00_scope R12). -/
theorem memWrite_eq_some {d : Dest} {v : Span} (out : Memory) (h : v.length ≤ d.cap) :
    memWrite out d 0 v = some (Memory.writeSpan out d.base v) := by
  unfold memWrite; rw [if_pos (by omega), Nat.add_zero]

@[simp] theorem length_freeSpan (draw n : Nat) : (freeSpan draw n).length = n := by simp [freeSpan]

@[simp] theorem length_buildFrame (prof : Profile) (t : Byte) (P : Span) :
    (buildFrame prof t P).length = P.length + 6 := by
  simp only [buildFrame, header, bytesLE16, List.length_append, List.length_cons, List.length_nil]; omega

/-- emit_frame never faults: it fails on the size, or writes the frame at OUT[0..|F|) (41_encoder R101). -/
theorem emitFrame_cases (prof : Profile) (t : Byte) (P : Span) (d : Dest) (s : State) :
    (d.cap < P.length + 6 ∧ emitFrame prof t P d s = .next (s.failEncode d .bufferTooSmall)) ∨
    (P.length + 6 ≤ d.cap ∧ emitFrame prof t P d s =
      .next (({ s with out := Memory.writeSpan s.out d.base (buildFrame prof t P) } : State).answer
        { status := .ok, results := .frameLen (P.length + 6) })) := by
  have hlen := length_buildFrame prof t P
  by_cases h : d.cap < P.length + 6
  · left; exact ⟨h, by rw [emitFrame]; simp only [hlen, if_pos h]⟩
  · right
    refine ⟨by omega, ?_⟩
    rw [emitFrame]
    simp only [hlen, if_neg h, memWrite_eq_some s.out (d := d) (v := buildFrame prof t P) (by omega)]

/-- FEED on one instance: the dead case, the overflow case, or the decode loop (43_reassembler R160). -/
theorem feedInst_cases (cap : Nat) (inst : Instance) (S : Span) :
    (inst.dead = true ∧ feedInst cap inst S = .ok (inst, overflowReply)) ∨
    (inst.dead = false ∧ cap < inst.len + S.length ∧
      feedInst cap inst S = .ok ({ inst with buf := [], len := 0, dead := true }, overflowReply)) ∨
    (inst.dead = false ∧ inst.len + S.length ≤ cap ∧ feedInst cap inst S = feedLive inst S) := by
  unfold feedInst overflows
  cases inst.dead with
  | true => left; simp
  | false =>
    right
    by_cases h : cap < inst.len + S.length
    · left; simp [h]
    · right; simp [h]; omega

/-- A next state of a step comes from idling, from an incomplete span at the decoder, or from the admitted
instruction that the oldest request decodes to. -/
theorem step_next_cases {s s' : State} (h : step s = .next s') :
    (s.pending = [] ∧ s' = s) ∨
    ∃ iss rest, s.pending = iss :: rest ∧
      ((decode iss.request = .error .incomplete ∧
          s' = ({ s with pending := rest } : State).answer (DecodeResult.reply .incomplete)) ∨
        ∃ i, decode iss.request = .ok i ∧ issueRefusal iss.ctx i = none ∧
          exec i { s with pending := rest } = .next s') := by
  unfold step at h
  cases hp : s.pending with
  | nil =>
    rw [fetch_nil s hp] at h
    simp only [idle, Host.Outcome.next.injEq] at h
    exact .inl ⟨rfl, h.symm⟩
  | cons iss rest =>
    rw [fetch_cons s iss rest hp] at h
    dsimp only at h
    refine .inr ⟨iss, rest, rfl, ?_⟩
    cases hd : decode iss.request with
    | error r =>
      simp only [hd] at h
      cases r with
      | incomplete =>
        simp only [rejected, Host.Outcome.next.injEq] at h
        exact .inl ⟨rfl, h.symm⟩
      | readOutsideSpan => simp [rejected] at h
    | ok i =>
      simp only [hd] at h
      refine .inr ⟨i, rfl, ?_⟩
      cases ha : issueRefusal iss.ctx i with
      | some r => simp [ha] at h
      | none => simp only [ha] at h; exact ⟨rfl, h⟩

end Sys2Proof.Machine
end

