-- ==== Sys2Proof/Laws/Operands.lean ====
section
/-! SUPPORT. The values of the assembled multi-byte fields, and that splitting and assembling are inverse
(00_scope R11, 30_encoding R78). -/

namespace Sys2Proof.Machine

/-- A low part below 2^k and a part shifted by k: their OR is their sum. -/
theorem or_shift_eq_add (a b k : Nat) (h : a < 2 ^ k) : a ||| (b <<< k) = a + 2 ^ k * b := by
  rw [Nat.or_comm, Nat.shiftLeft_eq, Nat.mul_comm b, ← Nat.two_pow_add_eq_or_of_lt h, Nat.add_comm]

/-- `LE16` is the low byte plus 256 times the high byte. -/
theorem le16_toNat (lo hi : Byte) : (le16 lo hi).toNat = lo.toNat + 256 * hi.toNat := by
  have h1 := lo.isLt
  have h2 := hi.isLt
  simp only [le16, BitVec.toNat_or, BitVec.toNat_shiftLeft, BitVec.toNat_setWidth]
  have e1 : lo.toNat % 2 ^ 16 = lo.toNat := Nat.mod_eq_of_lt (by omega)
  have e2 : hi.toNat % 2 ^ 16 = hi.toNat := Nat.mod_eq_of_lt (by omega)
  have e3 : hi.toNat <<< 8 % 2 ^ 16 = hi.toNat <<< 8 := by
    rw [Nat.shiftLeft_eq]; exact Nat.mod_eq_of_lt (by omega)
  rw [e1, e2, e3, or_shift_eq_add _ _ _ h1]
  norm_num

/-- `LE32` is the sum of its bytes at weights 1, 2^8, 2^16 and 2^24. -/
theorem le32_toNat (b0 b1 b2 b3 : Byte) :
    (le32 b0 b1 b2 b3).toNat =
      b0.toNat + 2 ^ 8 * b1.toNat + 2 ^ 16 * b2.toNat + 2 ^ 24 * b3.toNat := by
  have h0 := b0.isLt
  have h1 := b1.isLt
  have h2 := b2.isLt
  have h3 := b3.isLt
  simp only [le32, BitVec.toNat_or, BitVec.toNat_shiftLeft, BitVec.toNat_setWidth]
  have w (b : Byte) : b.toNat % 2 ^ 32 = b.toNat := Nat.mod_eq_of_lt (by have := b.isLt; omega)
  have s (b : Byte) (k : Nat) (hk : k ≤ 24) : b.toNat <<< k % 2 ^ 32 = b.toNat <<< k := by
    rw [Nat.shiftLeft_eq]
    refine Nat.mod_eq_of_lt (lt_of_lt_of_le (Nat.mul_lt_mul_of_pos_right b.isLt (by positivity)) ?_)
    calc 2 ^ 8 * 2 ^ k = 2 ^ (8 + k) := (pow_add _ _ _).symm
      _ ≤ 2 ^ 32 := Nat.pow_le_pow_right (by omega) (by omega)
  rw [w, w, w, w, s _ _ (by omega), s _ _ (by omega), s _ _ (by omega), or_shift_eq_add b0.toNat b1.toNat 8 h0,
    or_shift_eq_add (b0.toNat + 2 ^ 8 * b1.toNat) b2.toNat 16 (by omega),
    or_shift_eq_add (b0.toNat + 2 ^ 8 * b1.toNat + 2 ^ 16 * b2.toNat) b3.toNat 24 (by omega)]

/-- The two bytes of a 16-bit value, as numbers. -/
theorem bytesLE16_eq (v : Half) :
    bytesLE16 v = [BitVec.ofNat 8 (v.toNat % 256), BitVec.ofNat 8 (v.toNat / 256)] := by
  simp only [bytesLE16, List.cons.injEq, and_true]
  refine ⟨BitVec.eq_of_toNat_eq ?_, BitVec.eq_of_toNat_eq ?_⟩ <;>
    simp [Nat.shiftRight_eq_div_pow]

/-- The four bytes of a 32-bit value, as numbers. -/
theorem bytesLE32_eq (v : Word) :
    bytesLE32 v = [BitVec.ofNat 8 (v.toNat % 256), BitVec.ofNat 8 (v.toNat / 2 ^ 8 % 256),
      BitVec.ofNat 8 (v.toNat / 2 ^ 16 % 256), BitVec.ofNat 8 (v.toNat / 2 ^ 24)] := by
  simp only [bytesLE32, List.cons.injEq, and_true]
  refine ⟨BitVec.eq_of_toNat_eq ?_, BitVec.eq_of_toNat_eq ?_, BitVec.eq_of_toNat_eq ?_,
    BitVec.eq_of_toNat_eq ?_⟩ <;> simp [Nat.shiftRight_eq_div_pow]

/-- Splitting an assembled value gives its bytes back. -/
theorem bytesLE16_le16 (lo hi : Byte) : bytesLE16 (le16 lo hi) = [lo, hi] := by
  have h1 := lo.isLt
  have h2 := hi.isLt
  rw [bytesLE16_eq, le16_toNat]
  simp only [List.cons.injEq, and_true]
  refine ⟨BitVec.eq_of_toNat_eq ?_, BitVec.eq_of_toNat_eq ?_⟩ <;> rw [BitVec.toNat_ofNat] <;> omega

/-- Assembling the two bytes of a 16-bit value gives it back. -/
theorem le16_bytes (v : Half) : le16 (v.extractLsb' 0 8) (v.extractLsb' 8 8) = v := by
  have h := v.isLt
  refine BitVec.eq_of_toNat_eq ?_
  rw [le16_toNat]
  simp only [BitVec.extractLsb'_toNat, Nat.shiftRight_eq_div_pow]
  omega

/-- Assembling the four bytes of a 32-bit value gives it back. -/
theorem le32_bytes (v : Word) :
    le32 (v.extractLsb' 0 8) (v.extractLsb' 8 8) (v.extractLsb' 16 8) (v.extractLsb' 24 8) = v := by
  have h := v.isLt
  refine BitVec.eq_of_toNat_eq ?_
  rw [le32_toNat]
  simp only [BitVec.extractLsb'_toNat, Nat.shiftRight_eq_div_pow]
  omega

@[simp] theorem length_bytesLE16 (v : Half) : (bytesLE16 v).length = 2 := rfl
@[simp] theorem length_bytesLE32 (v : Word) : (bytesLE32 v).length = 4 := rfl

/-- Payload bytes inside the payload and past it (42_decoder R132). -/
theorem g_of_lt {P : Span} {j : Nat} (h : j < P.length) : g P j = P[j] := by simp [g, h]
theorem g_of_ge {P : Span} {j : Nat} (h : P.length ≤ j) : g P j = 0#8 := by simp [g, h]

end Sys2Proof.Machine
end

