-- ==== Sys2Proof/Laws/PerInstr.lean ====
section
/-! SUPPORT. Per-instruction laws. Family TableRow: the request that carries a well-formed instruction is one
its row of spec/opcode_table.json applies to (30_encoding R80): the opcode of a command, the first four wire
bytes of a FRAME row (a shorter span padded with 0), and no earlier row of the table does. -/

namespace Sys2Proof.Laws.TableRow

open Sys2Proof Sys2Proof.Machine

/-- Appending bytes loses nothing. -/
theorem append_byte_inj {n : Nat} (x x' : BitVec n) (y y' : Byte) : x ++ y = x' ++ y' ↔ x = x' ∧ y = y' := by
  refine ⟨fun h => ⟨?_, ?_⟩, fun ⟨h1, h2⟩ => by rw [h1, h2]⟩
  · refine BitVec.eq_of_getLsbD_eq fun i _ => ?_
    have := congrArg (fun v => v.getLsbD (i + 8)) h
    simpa [BitVec.getLsbD_append] using this
  · refine BitVec.eq_of_getLsbD_eq fun i hi => ?_
    have := congrArg (fun v => v.getLsbD i) h
    simpa [BitVec.getLsbD_append, hi] using this

/-- A FRAME row on the four wire bytes, byte by byte. -/
theorem applies_bytes (m : String) (b0 b1 b2 b3 m0 m1 m2 m3 p0 p1 p2 p3 : Byte) :
    TableRow.applies ⟨m, m0 ++ m1 ++ m2 ++ m3, p0 ++ p1 ++ p2 ++ p3⟩ (frameWord b0 b1 b2 b3) =
      decide (((b0 &&& m0 = p0 ∧ b1 &&& m1 = p1) ∧ b2 &&& m2 = p2) ∧ b3 &&& m3 = p3) := by
  rw [Bool.eq_iff_iff]
  simp only [TableRow.applies, frameWord, BitVec.and_append, beq_iff_eq, decide_eq_true_eq]
  simp only [append_byte_inj]

/-- The seven FRAME rows with masks and patterns cut into bytes. -/
theorem frameTable_eq : frameTable =
    [⟨"INVALID_LEN0", 0xFF#8 ++ 0xFF#8 ++ 0xFF#8 ++ 0x00#8, 0xAA#8 ++ 0x55#8 ++ 0x00#8 ++ 0x00#8⟩,
     ⟨"FRAME_RC", 0xFF#8 ++ 0xFF#8 ++ 0x00#8 ++ 0xFF#8, 0xAA#8 ++ 0x55#8 ++ 0x00#8 ++ 0x01#8⟩,
     ⟨"FRAME_TLM", 0xFF#8 ++ 0xFF#8 ++ 0x00#8 ++ 0xFF#8, 0xAA#8 ++ 0x55#8 ++ 0x00#8 ++ 0x02#8⟩,
     ⟨"FRAME_HB", 0xFF#8 ++ 0xFF#8 ++ 0x00#8 ++ 0xFF#8, 0xAA#8 ++ 0x55#8 ++ 0x00#8 ++ 0x03#8⟩,
     ⟨"FRAME_EXT", 0xFF#8 ++ 0xFF#8 ++ 0x00#8 ++ 0xFF#8, 0xAA#8 ++ 0x55#8 ++ 0x00#8 ++ 0x04#8⟩,
     ⟨"FRAME_RAW", 0xFF#8 ++ 0xFF#8 ++ 0x00#8 ++ 0x00#8, 0xAA#8 ++ 0x55#8 ++ 0x00#8 ++ 0x00#8⟩,
     ⟨"BAD_SYNC", 0x00#8 ++ 0x00#8 ++ 0x00#8 ++ 0x00#8, 0x00#8 ++ 0x00#8 ++ 0x00#8 ++ 0x00#8⟩] := by
  decide

/-- The row of four wire bytes, as 30_encoding R81 lists the cases. -/
theorem firstMatch_frame (b0 b1 b2 b3 : Byte) :
    firstMatch frameTable (frameWord b0 b1 b2 b3) = some (
      if b0 = 0xAA#8 ∧ b1 = 0x55#8 then
        if b2 = 0#8 then "INVALID_LEN0"
        else if b3 = 1#8 then "FRAME_RC"
        else if b3 = 2#8 then "FRAME_TLM"
        else if b3 = 3#8 then "FRAME_HB"
        else if b3 = 4#8 then "FRAME_EXT"
        else "FRAME_RAW"
      else "BAD_SYNC") := by
  have all1 (b : Byte) : b &&& 0xFF#8 = b := BitVec.and_allOnes
  have all0 (b : Byte) : b &&& 0x00#8 = 0x00#8 := BitVec.and_zero
  rw [firstMatch, frameTable_eq]
  simp only [List.find?_cons, applies_bytes, all1, all0, and_true, List.find?_nil]
  by_cases h : b0 = 0xAA#8 ∧ b1 = 0x55#8
  · obtain ⟨rfl, rfl⟩ := h
    by_cases h0 : b2 = 0#8
    · simp [h0]
    · by_cases h1 : b3 = 1#8
      · simp [h0, h1]
      · by_cases h2 : b3 = 2#8
        · simp [h0, h2]
        · by_cases h3 : b3 = 3#8
          · simp [h0, h3]
          · by_cases h4 : b3 = 4#8
            · simp [h0, h4]
            · simp [h0, h1, h2, h3, h4]
  · simp [h]

/-- The row the table's first match gives for a request. -/
def rowOf : Request → Option String
  | .command op _ => firstMatch cmdTable op
  | .span _ S => firstMatch frameTable (frameWord (S.getD 0 0#8) (S.getD 1 0#8) (S.getD 2 0#8) (S.getD 3 0#8))

/-- The request of a well-formed instruction selects the instruction's own row. -/
def Statement (i : Instr) : Prop := i.wf = true → rowOf (encode i) = some i.mnemonic

/-- Every opcode outside the nine falls through to the last CMD row (30_encoding R76, R80). -/
theorem firstMatch_illegal : ∀ op : Byte, (definedOpcodes.contains op) = false →
    firstMatch cmdTable op = some "ILLEGAL" := by
  decide +kernel

/-- A well-formed frame's length byte is not 0. -/
theorem len_ne_zero {f : FrameFields} (h : f.wf = true) : f.len ≠ 0#8 := by
  intro h0
  simp [FrameFields.wf, h0] at h

/-- The row of a frame's wire bytes. -/
theorem rowOf_frameBytes (t : Byte) {f : FrameFields} (h : f.wf = true) :
    rowOf (.span .A (frameBytes t f)) = some (
      if t = 1#8 then "FRAME_RC" else if t = 2#8 then "FRAME_TLM" else if t = 3#8 then "FRAME_HB"
      else if t = 4#8 then "FRAME_EXT" else "FRAME_RAW") := by
  have hL := len_ne_zero h
  simp [rowOf, frameBytes, firstMatch_frame, hL]

theorem crc16 (S : Span) : Statement (.crc16 S) := fun _ => rfl
theorem encRc (prof : Profile) (r : RcInput) (d : Dest) : Statement (.encRc prof r d) := fun _ => rfl
theorem encTlm (prof : Profile) (r : Tlm) (d : Dest) : Statement (.encTlm prof r d) := fun _ => rfl
theorem encHb (prof : Profile) (st : Byte) (d : Dest) : Statement (.encHb prof st d) := fun _ => rfl
theorem encExt (prof : Profile) (r : ExtInput) (d : Dest) : Statement (.encExt prof r d) := fun _ => rfl
theorem decode (prof : Profile) (S : Span) : Statement (.decode prof S) := fun _ => rfl
theorem feed (k : Nat) (S : Span) : Statement (.feed k S) := fun _ => rfl
theorem reset (k : Nat) (prof : Profile) : Statement (.reset k prof) := fun _ => rfl
theorem rdstat (k : Nat) : Statement (.rdstat k) := fun _ => rfl

theorem illegal (op : Byte) : Statement (.illegal op) := fun h =>
  firstMatch_illegal op (by simpa [Instr.wf] using h)

theorem invalidLen0 : Statement .invalidLen0 := fun _ => rfl
theorem frameRc (f : FrameFields) : Statement (.frameRc f) := fun h => by
  rw [encode, rowOf_frameBytes _ h]; rfl
theorem frameTlm (f : FrameFields) : Statement (.frameTlm f) := fun h => by
  rw [encode, rowOf_frameBytes _ h]; rfl
theorem frameHb (f : FrameFields) : Statement (.frameHb f) := fun h => by
  rw [encode, rowOf_frameBytes _ h]; rfl
theorem frameExt (f : FrameFields) : Statement (.frameExt f) := fun h => by
  rw [encode, rowOf_frameBytes _ h]; rfl

theorem frameRaw (t : Byte) (f : FrameFields) : Statement (.frameRaw t f) := fun h => by
  simp only [Instr.wf, unknownType, Bool.and_eq_true, Bool.not_eq_true', Bool.or_eq_false_iff, beq_eq_false_iff_ne] at h
  obtain ⟨⟨⟨⟨h1, h2⟩, h3⟩, h4⟩, hf⟩ := h
  rw [encode, rowOf_frameBytes _ hf, if_neg h1, if_neg h2, if_neg h3, if_neg h4]; rfl

theorem badSync (b0 b1 : Byte) : Statement (.badSync b0 b1) := fun h => by
  have h' : ¬(b0 = 0xAA#8 ∧ b1 = 0x55#8) := by
    rintro ⟨rfl, rfl⟩; simp [Instr.wf] at h
  simp only [encode, rowOf, firstMatch_frame, List.getD_cons_zero, List.getD_cons_succ, if_neg h', Instr.mnemonic]

end Sys2Proof.Laws.TableRow
end

