-- ==== Sys2Proof/Tests/Slice0.lean ====
section
/-! SUPPORT. Small tests with expected results from spec/ (95_test_vectors, unless a test says otherwise), and
for each statement of Obligations.lean with hypotheses a witness that meets them. -/

namespace Sys2Proof.Tests

-- One theorem after the other: many kernel evaluations at once need more threads than the memory limit allows.
set_option Elab.async false

open Sys2Proof Sys2Proof.Machine

/-! ### Helpers -/

def bytes (l : List Nat) : Span := l.map (BitVec.ofNat 8)

def nextOf (o : Host.Outcome State Fault Refusal) : Option State :=
  match o with
  | .next t => some t
  | .fault _ => none
  | .refused _ => none

def replyOf (o : Host.Outcome State Fault Refusal) : Option Reply := (nextOf o).bind State.reply

def statusOf (o : Host.Outcome State Fault Refusal) : Option Status := (replyOf o).map Reply.status

def refusalOf (o : Host.Outcome State Fault Refusal) : Option Refusal :=
  match o with
  | .next _ => none
  | .fault _ => none
  | .refused r => some r

theorem exists_next {o : Host.Outcome State Fault Refusal} (h : (nextOf o).isSome = true) : ∃ t, o = .next t := by
  cases o with
  | next t => exact ⟨t, rfl⟩
  | fault x => cases h
  | refused r => cases h

/-- The next state of an outcome that is known to be one. -/
theorem next_of_nextOf {o : Host.Outcome State Fault Refusal} {t : State} (h : nextOf o = some t) : o = .next t := by
  cases o with
  | next u => simp only [nextOf, Option.some.injEq] at h; rw [h]
  | fault x => cases h
  | refused r => cases h

/-- The first n bytes of OUT from place 0, after an outcome. -/
def outOf (o : Host.Outcome State Fault Refusal) (n : Nat) : Option Span :=
  (nextOf o).bind fun t => Memory.readSpan t.out 0 n

/-- LEN and DEAD of instance k after an outcome. -/
def lenDead (o : Host.Outcome State Fault Refusal) (k : Nat) : Option (Nat × Bool) :=
  (nextOf o).bind fun t => (t.insts[k]?).map fun x => (x.len, x.dead)

def room : Dest := { base := 0, cap := 64 }

def rcIn (n : Nat) (cs : List Nat) : RcInput where
  channelCount := BitVec.ofNat 8 n
  channels := Vector.ofFn fun i => BitVec.ofNat 16 (cs.getD i.val 0)

def extIn (id p : Nat) (qs : List Nat) : ExtInput where
  cmdId := BitVec.ofNat 8 id
  paramLen := BitVec.ofNat 8 p
  params := Vector.ofFn fun j => BitVec.ofNat 8 (qs.getD j.val 0)

/-- The telemetry of V-EX-1: 3700, 150, -123, 456, 0, 1000. -/
def tlmEx : Tlm where
  voltageMv := 3700#16
  currentMa := 150#16
  roll := BitVec.ofInt 16 (-123)
  pitch := 456#16
  yaw := 0#16
  altitudeCm := 1000#32

def hb1 : Span := bytes [0xAA, 0x55, 0x02, 0x03, 0x01, 0x11, 0x30]
def rc2 : Span := bytes [0xAA, 0x55, 0x06, 0x01, 0x02, 0xE8, 0x03, 0x00, 0x00, 0xC0, 0xB1]
def tlmFrame : Span :=
  bytes [0xAA, 0x55, 0x0F, 0x02, 0x74, 0x0E, 0x96, 0x00, 0x85, 0xFF, 0xC8, 0x01, 0x00, 0x00, 0xE8, 0x03, 0x00, 0x00,
    0x5A, 0xEC]
def ext3 : Span := bytes [0xAA, 0x55, 0x06, 0x04, 0x21, 0x03, 0xDE, 0xAD, 0xBE, 0x5C, 0x1D]

def hbFrame (ok : Bool) (st : Byte) : ParsedFrame := { frameType := 0x03#8, crcOk := ok, payload := .hb st }

/-- An instance that holds the bytes H. -/
def holding (prof : Profile) (H : Span) : Instance :=
  { profile := prof, buf := Memory.ofSpan H, len := H.length, dead := false }

def deadInst : Instance := { profile := .B, buf := [], len := 0, dead := true }

/-- A state with the smallest capacity, 260, and these instances. -/
def withInsts (insts : List Instance) : State :=
  { State.reset with params := { cap := 260, numInst := insts.length, profilePor := .A }, insts := insts }

def issued (r : Request) : Issue := { ctx := Context.quiet, request := r }

/-! ### Well-formedness: an ill-formed term for each check, which the check refuses -/

/-- A FRAME term whose length byte is not its payload length plus one (30_encoding R62). -/
def badLen : FrameFields := { len := 0x02#8, payload := [], rxCrc := 0#16 }

theorem test_wf_refuses_defined_opcode_as_illegal : (Instr.illegal 0x20#8).wf = false := by decide
theorem test_wf_refuses_length_mismatch :
    (Instr.frameRc badLen).wf = false ∧ (Instr.frameTlm badLen).wf = false ∧ (Instr.frameHb badLen).wf = false ∧
      (Instr.frameExt badLen).wf = false ∧ (Instr.frameRaw 0x07#8 badLen).wf = false := by decide
theorem test_wf_refuses_known_type_as_raw :
    (Instr.frameRaw 0x04#8 { len := 0x01#8, payload := [], rxCrc := 0#16 }).wf = false := by decide
theorem test_wf_refuses_sync_bytes_as_bad_sync : (Instr.badSync 0xAA#8 0x55#8).wf = false := by decide
theorem test_wf_refuses_missing_instance : (Instr.feed 2 []).inRange 2 = false := by decide

/-! ### Decoding: words written out from 30_encoding -/

theorem test_decode_commands (a : Operands) :
    decode (.command 0x01#8 a) = .ok (.crc16 a.S) ∧ decode (.command 0x10#8 a) = .ok (.encRc a.prof a.rc a.out) ∧
    decode (.command 0x11#8 a) = .ok (.encTlm a.prof a.tlm a.out) ∧
    decode (.command 0x12#8 a) = .ok (.encHb a.prof a.deviceStatus a.out) ∧
    decode (.command 0x13#8 a) = .ok (.encExt a.prof a.ext a.out) := ⟨rfl, rfl, rfl, rfl, rfl⟩
theorem test_decode_state_commands (a : Operands) :
    decode (.command 0x20#8 a) = .ok (.decode a.prof a.S) ∧ decode (.command 0x30#8 a) = .ok (.feed a.k a.S) ∧
    decode (.command 0x40#8 a) = .ok (.reset a.k a.prof) ∧ decode (.command 0x41#8 a) = .ok (.rdstat a.k) ∧
    decode (.command 0x7F#8 a) = .ok (.illegal 0x7F#8) := ⟨rfl, rfl, rfl, rfl, rfl⟩
/-- V-ENC-3. -/
theorem test_decode_frame_rc : decode (.span .A rc2) =
    .ok (.frameRc { len := 0x06#8, payload := bytes [0x02, 0xE8, 0x03, 0x00, 0x00], rxCrc := 0xB1C0#16 }) := by decide
/-- V-DEC-20. -/
theorem test_decode_frame_tlm : decode (.span .A (bytes [0xAA, 0x55, 0x04, 0x02, 0x01, 0x02, 0x03, 0xC4, 0xD9])) =
    .ok (.frameTlm { len := 0x04#8, payload := bytes [1, 2, 3], rxCrc := 0xD9C4#16 }) := by decide
/-- V-DEC-1, with bytes behind the frame (V-DEC-9). -/
theorem test_decode_frame_hb : decode (.span .B (hb1 ++ bytes [0x99, 0x98])) =
    .ok (.frameHb { len := 0x02#8, payload := [0x01#8], rxCrc := 0x3011#16 }) := by decide
/-- V-ENC-13. -/
theorem test_decode_frame_ext : decode (.span .A ext3) =
    .ok (.frameExt { len := 0x06#8, payload := bytes [0x21, 0x03, 0xDE, 0xAD, 0xBE], rxCrc := 0x1D5C#16 }) := by decide
/-- V-DEC-13: the smallest frame, type 0x00. -/
theorem test_decode_frame_raw : decode (.span .A (bytes [0xAA, 0x55, 0x01, 0x00, 0x00, 0x20])) =
    .ok (.frameRaw 0x00#8 { len := 0x01#8, payload := [], rxCrc := 0x2000#16 }) := by decide
/-- V-DEC-7 and V-DEC-24. -/
theorem test_decode_invalid_headers :
    decode (.span .A (bytes [0xAA, 0x55, 0x00])) = .ok .invalidLen0 ∧
    decode (.span .A (0xAB#8 :: hb1.drop 1)) = .ok (.badSync 0xAB#8 0x55#8) := by decide
/-- V-DEC-3 and V-DEC-8: too short. -/
theorem test_decode_rejects_short_spans :
    decode (.span .A [0xAA#8]) = .error .incomplete ∧ decode (.span .A (hb1.take 6)) = .error .incomplete := by decide
/-- The host's words: an opcode; a FRAME_HB word with L = 2; the L = 0 row comes before it (30_encoding R80). -/
theorem test_table_words :
    decodeTableWord 8 0x41 = some (.rdstat 0) ∧
    decodeTableWord 32 0xAA550203 = some (.frameHb { len := 0x02#8, payload := [0#8], rxCrc := 0#16 }) ∧
    decodeTableWord 32 0xAA550003 = some .invalidLen0 := by decide +kernel

/-! ### Meanings -/

/-- V-CRC-1 and V-CRC-8. -/
theorem test_crc16 :
    replyOf (exec (.crc16 []) State.reset) = some { status := .ok, results := .crc 0xFFFF#16 } ∧
    replyOf (exec (.crc16 (bytes [0x31, 0x32, 0x33, 0x34, 0x35, 0x36, 0x37, 0x38, 0x39])) State.reset) =
      some { status := .ok, results := .crc 0x4B37#16 } := by decide +kernel
/-- V-CRC-10. -/
theorem test_crc_table :
    crcTable[0x01]? = some 0xC0C1#16 ∧ crcTable[0x80]? = some 0xA001#16 ∧ crcTable[0xFF]? = some 0x4040#16 := by
  decide +kernel
/-- V-ENC-6b: out_cap equal to the frame size. -/
theorem test_enc_rc :
    replyOf (exec (.encRc .A (rcIn 2 [1000, 0]) { base := 0, cap := 11 }) State.reset) =
      some { status := .ok, results := .frameLen 11 } ∧
    outOf (exec (.encRc .A (rcIn 2 [1000, 0]) { base := 0, cap := 11 }) State.reset) 11 = some rc2 := by decide +kernel
/-- V-ENC-7 and V-ENC-6a. -/
theorem test_enc_rc_fails :
    statusOf (exec (.encRc .A (rcIn 0 []) { base := 0, cap := 0 }) State.reset) = some .invalidChannelCount ∧
    statusOf (exec (.encRc .A (rcIn 2 [1000, 0]) { base := 0, cap := 10 }) State.reset) = some .bufferTooSmall := by
  decide +kernel
/-- V-EX-1. -/
theorem test_enc_tlm : outOf (exec (.encTlm .A tlmEx room) State.reset) 20 = some tlmFrame := by decide +kernel
/-- V-ENC-18. -/
theorem test_enc_tlm_fails :
    statusOf (exec (.encTlm .A tlmEx { base := 0, cap := 19 }) State.reset) = some .bufferTooSmall := by decide +kernel
/-- V-ENC-11, profile B (V-ENC-21). -/
theorem test_enc_hb : outOf (exec (.encHb .B 0xFF#8 room) State.reset) 7 =
    some (bytes [0xAA, 0x55, 0x02, 0x03, 0xFF, 0x90, 0xB0]) := by decide +kernel
/-- V-ENC-13. -/
theorem test_enc_ext : outOf (exec (.encExt .A (extIn 0x21 3 [0xDE, 0xAD, 0xBE]) room) State.reset) 11 = some ext3 := by
  decide +kernel
/-- V-ENC-20. -/
theorem test_enc_ext_fails :
    statusOf (exec (.encExt .A (extIn 0x01 33 []) { base := 0, cap := 0 }) State.reset) = some .bufferTooSmall := by
  decide +kernel
/-- V-DEC-11. -/
theorem test_decode_bad_crc :
    replyOf (exec (.decode .A (bytes [0xAA, 0x55, 0x02, 0x03, 0x01, 0x91, 0x30])) State.reset) =
      some (okDecoded 0x03#8 false (.hb 0x01#8) 7) := by decide +kernel
/-- V-DEC-6. -/
theorem test_decode_incomplete :
    replyOf (exec (.decode .A (bytes [0xAA, 0x55])) State.reset) = some (statusOnly .incomplete) := by decide +kernel
/-- V-FEED-7. -/
theorem test_feed :
    replyOf (exec (.feed 0 (bytes [0xAA, 0x55, 0x02, 0x03, 0x02, 0x11, 0x30] ++ hb1)) State.reset) =
      some (okFrames [hbFrame false 0x02#8, hbFrame true 0x01#8]) ∧
    lenDead (exec (.feed 0 (bytes [0xAA, 0x55, 0x02, 0x03, 0x02, 0x11, 0x30] ++ hb1)) State.reset) 0 = some (0, false) := by
  decide +kernel
/-- P3: 3 + 258 bytes are more than 260. -/
theorem test_feed_overflow :
    lenDead (exec (.feed 0 (List.replicate 258 0#8)) (withInsts [holding .A (bytes [0xAA, 0x55, 0xFF])])) 0 =
      some (0, true) := by decide +kernel
/-- V-CTL-3: RESET of a dead instance. -/
theorem test_reset :
    (nextOf (exec (.reset 0 .A) (withInsts [deadInst]))).map State.insts = some [Instance.fresh .A] := by decide +kernel
/-- V-CTL-4. -/
theorem test_rdstat :
    replyOf (exec (.rdstat 0) (withInsts [holding .B (bytes [0xAA, 0x55])])) =
      some { status := .ok, results := .stat 0x00020002#32 } := by decide +kernel
/-- V-CTL-5. -/
theorem test_illegal : replyOf (exec (.illegal 0x14#8) State.reset) = some (statusOnly .illegalCommand) := by
  decide +kernel
/-- V-DEC-25c and V-DEC-5. -/
theorem test_frame_invalid_headers :
    replyOf (exec .invalidLen0 State.reset) = some (statusOnly .invalidHeader) ∧
    replyOf (exec (.badSync 0x00#8 0x55#8) State.reset) = some (statusOnly .invalidHeader) := by decide +kernel
/-- V-DEC-15: declared 5, two channels present. -/
theorem test_frame_rc :
    replyOf (exec (.frameRc { len := 0x06#8, payload := bytes [5, 0x6F, 0, 0xDE, 0], rxCrc := 0x65F4#16 }) State.reset) =
      some (okDecoded 0x01#8 true (.rc { channelCount := 2#8, channels := (rcIn 2 [111, 222]).channels }) 11) := by
  decide +kernel
/-- V-DEC-20: a short payload is filled with zeros. -/
theorem test_frame_tlm :
    replyOf (exec (.frameTlm { len := 0x04#8, payload := bytes [1, 2, 3], rxCrc := 0xD9C4#16 }) State.reset) =
      some (okDecoded 0x02#8 true (.tlm (⟨513#16, 3#16, 0#16, 0#16, 0#16, 0#32⟩ : Tlm)) 9) := by decide +kernel
/-- V-DEC-22. -/
theorem test_frame_hb :
    replyOf (exec (.frameHb { len := 0x03#8, payload := bytes [5, 6], rxCrc := 0x3273#16 }) State.reset) =
      some (okDecoded 0x03#8 true (.hb 0x05#8) 8) := by decide +kernel
/-- V-DEC-19: declared 5, two parameters present. -/
theorem test_frame_ext :
    replyOf (exec (.frameExt { len := 0x05#8, payload := bytes [0x42, 5, 9, 8], rxCrc := 0x61F2#16 }) State.reset) =
      some (okDecoded 0x04#8 true (.ext { cmdId := 0x42#8, paramLen := 2#8, params := (extIn 0 0 [9, 8]).params }) 10) := by
  decide +kernel
/-- V-DEC-12. -/
theorem test_frame_raw :
    replyOf (exec (.frameRaw 0x07#8 { len := 0x04#8, payload := bytes [1, 2, 3], rxCrc := 0x15C4#16 }) State.reset) =
      some (okDecoded 0x07#8 true (.raw (⟨3#8, Vector.ofFn fun j => (bytes [1, 2, 3]).getD j.val 0#8⟩ : RawPayload)) 9) := by decide +kernel

/-! ### Steps -/

/-- The table word of RDSTAT runs as the first instruction after reset; STAT is 0 (V-CTL-1). -/
theorem test_step_runs_fetch_word :
    replyOf (step (State.reset.withFetchWord 8 0x41)) = some { status := .ok, results := .stat 0#32 } ∧
    statusOf (step (State.reset.withFetchWord 32 0xAA550203)) = some .ok ∧
    statusOf (step (State.reset.withFetchWord 32 0)) = some .invalidHeader := by decide +kernel
/-- 30_encoding R79: a channel list written short, and DROP. -/
theorem test_assembler :
    (AsmLine.encRc .A 2#8 [1000#16] room).assemble State.reset =
      some (.command 0x10#8 { Operands.zero with rc := rcIn 2 [1000], out := room }) ∧
    (AsmLine.pseudo (.drop 1)).assemble State.reset = some (.command 0x40#8 { Operands.zero with k := 1 }) := by
  decide +kernel

/-! ### Witnesses: concrete states and operands that meet the hypotheses of the statements -/

/-- Instance 0 holds the start of a header, instance 1 is dead; one RDSTAT is issued. -/
def liveState : State :=
  { withInsts [holding .A (bytes [0xAA, 0x55, 0x02]), deadInst] with
    pending := [issued (.command 0x41#8 Operands.zero)] }

theorem live_holds : (holding .A (bytes [0xAA, 0x55, 0x02])).Holds (bytes [0xAA, 0x55, 0x02]) := ⟨rfl, rfl⟩

theorem live_inv : liveState.Inv where
  params_legal := by decide
  insts_length := rfl
  insts_inv := by
    intro inst h
    simp only [liveState, withInsts, List.mem_cons, List.not_mem_nil, or_false] at h
    rcases h with rfl | rfl
    · exact ⟨by decide, bytes [0xAA, 0x55, 0x02], live_holds, fun h => by simp [holding] at h, fun _ => rfl⟩
    · exact ⟨by decide, [], ⟨rfl, rfl⟩, fun _ => rfl, fun h => by simp [deadInst] at h⟩
  out_wf := rfl
  reply_wf := by intro r h; simp [liveState, withInsts, State.reset] at h

/-- Every end of every range of 30_encoding R76. -/
theorem witness_UndefinedOpcodesAreIllegalWithNoEffect :
    ∀ op ∈ [0x00#8, 0x02#8, 0x0F#8, 0x14#8, 0x1F#8, 0x21#8, 0x2F#8, 0x31#8, 0x3F#8, 0x42#8, 0xFF#8],
      op.toNat = 0 ∨ (0x02 ≤ op.toNat ∧ op.toNat ≤ 0x0F) ∨ (0x14 ≤ op.toNat ∧ op.toNat ≤ 0x1F) ∨
        (0x21 ≤ op.toNat ∧ op.toNat ≤ 0x2F) ∨ (0x31 ≤ op.toNat ∧ op.toNat ≤ 0x3F) ∨ 0x42 ≤ op.toNat := by decide
/-- The smallest frame, length byte 1, and a longest one, length byte 255. -/
theorem witness_DecodeOfEncodeGivesTheInstructionBack :
    (Instr.frameRaw 0x05#8 { len := 0x01#8, payload := [], rxCrc := 0#16 }).wf = true ∧
    (Instr.frameRc { len := 0xFF#8, payload := List.replicate 254 0#8, rxCrc := 0#16 }).wf = true ∧
    (Instr.illegal 0x42#8).wf = true ∧ (Instr.badSync 0xAA#8 0x54#8).wf = true := by decide +kernel
theorem witness_DecodedFrameEncodesToTheBytesItCameFrom : ∃ i, decode (.span .B (hb1 ++ [0#8])) = .ok i := ⟨_, rfl⟩
theorem witness_OpcodeTableFirstMatchAgreesWithTheDecoder :
    ∃ i, decode (.span .A (0xAA#8 :: 0x55#8 :: 0x01#8 :: 0x00#8 :: [0x00#8, 0x20#8])) = .ok i := ⟨_, rfl⟩
theorem witness_PowerOnLeavesEveryInstanceFresh : 1 < Config.reference.numInst := by decide
/-- The ends of CAP's range. -/
theorem witness_PowerOnMeetsTheInvariant :
    Params.legal { cap := 260, numInst := 1, profilePor := .B } = true ∧
    Params.legal { cap := 65535, numInst := 1, profilePor := .A } = true := by decide
theorem witness_EveryStepKeepsTheInvariant : liveState.Inv ∧ ∃ t, step liveState = .next t :=
  ⟨live_inv, exists_next (by decide +kernel)⟩
theorem witness_NoStepFaultsUnderTheInvariant : liveState.Inv := live_inv
theorem witness_StepRunsTheDecodedRequest_admitted :
    liveState.pending = [issued (.command 0x41#8 Operands.zero)] ∧
    decode (.command 0x41#8 Operands.zero) = .ok (.rdstat 0) ∧ issueRefusal Context.quiet (.rdstat 0) = none := by decide
theorem witness_StepRunsTheDecodedRequest_incomplete :
    ∃ s : State, s.pending = [issued (.span .A [0xAA#8])] ∧ decode (.span .A [0xAA#8]) = .error .incomplete :=
  ⟨{ State.reset with pending := [issued (.span .A [0xAA#8])] }, rfl, rfl⟩
theorem witness_StepRunsTheDecodedRequest_idle : State.reset.pending = [] := rfl
/-- In flight; being handled and not in flight; another instance in flight and being handled; naming no instance. -/
theorem witness_OverlappingAndReentrantIssueIsRefused :
    decode (.command 0x41#8 Operands.zero) = .ok (.rdstat 0) ∧ (Instr.rdstat 0).namedInst = some 0 ∧
    issueRefusal { inFlight := [0], handling := [0] } (.rdstat 0) = some (.overlappingIssue 0) ∧
    issueRefusal { inFlight := [1], handling := [0] } (.rdstat 0) = some (.reentrantIssue 0) ∧
    issueRefusal { inFlight := [1], handling := [1] } (.rdstat 0) = none ∧ (Instr.crc16 []).namedInst = none := by decide
theorem witness_InstanceNumbersOutOfRangeAreRefused :
    liveState.insts.length = liveState.params.numInst ∧ liveState.params.numInst ≤ 2 := by decide
/-- RDSTAT of instance 0 issued while the frames of instance 1 are being handled. -/
theorem witness_EveryAdmissibleRequestCompletes :
    ∃ s : State, s.Inv ∧
      s.pending = [{ ctx := { inFlight := [], handling := [1] }, request := .command 0x41#8 Operands.zero }] ∧
      ∀ i, decode (.command 0x41#8 Operands.zero) = .ok i →
        issueRefusal { inFlight := [], handling := [1] } i = none ∧ i.inRange s.params.numInst = true :=
  ⟨{ liveState with pending := [{ ctx := { inFlight := [], handling := [1] }, request := .command 0x41#8 Operands.zero }] },
    { live_inv with }, rfl, by intro i h; cases h; decide⟩
theorem witness_EveryCommandReturnsAStatusOfItsList : ∃ t, exec (.feed 1 []) liveState = .next t :=
  exists_next (by decide +kernel)
theorem witness_InstancesAreIndependent :
    (Instr.feed 0 hb1).namedInst ≠ some 1 ∧ ∃ t, exec (.feed 0 hb1) liveState = .next t :=
  ⟨by decide, exists_next (by decide +kernel)⟩
/-- An encode, a codec command and a FEED. -/
theorem witness_CommandsWriteOnlyWhatTheirRulesName :
    (∃ t, exec (.encHb .A 1#8 room) liveState = .next t) ∧ (∃ t, exec (.crc16 hb1) liveState = .next t) ∧
    ∃ t, exec (.feed 0 hb1) liveState = .next t :=
  ⟨exists_next (by decide +kernel), exists_next (by decide +kernel), exists_next (by decide +kernel)⟩
/-- One byte more than fits on a live instance; a dead instance, which is no overflowing FEED; a failed encode. -/
theorem witness_FailuresHaveOnlyTheEffectsOfTheirStatus :
    (∃ inst, liveState.insts[0]? = some inst ∧ inst.dead = false ∧
      liveState.params.cap < inst.len + (List.replicate 258 0#8).length) ∧
    statusOf (exec (.feed 1 []) liveState) = some .bufferOverflow ∧ ¬OverflowingFeed (.feed 1 []) liveState ∧
    statusOf (exec (.encHb .A 1#8 { base := 0, cap := 6 }) liveState) = some .bufferTooSmall ∧
    destOf (.encHb .A 1#8 { base := 0, cap := 6 }) = some { base := 0, cap := 6 } := by
  refine ⟨⟨_, rfl, rfl, by decide +kernel⟩, by decide +kernel, ?_, by decide +kernel, rfl⟩
  rintro ⟨k, S, inst, hi, hk, hd, -⟩
  cases hi
  have : inst = deadInst := by simpa [liveState, withInsts] using hk.symm
  rw [this] at hd
  exact Bool.noConfusion hd
theorem witness_RequestsTakeEffectInIssueOrder :
    liveState.pending = issued (.command 0x41#8 Operands.zero) :: [] ∧ ∃ t, step liveState = .next t :=
  ⟨rfl, exists_next (by decide +kernel)⟩
theorem witness_TableDrivenCrcAgreesWithTheBitLoop : 255 < 256 ∧ crcStep 0x00FF#16 0#8 = 0x4040#16 := by decide +kernel
/-- The last bit of a one-byte span. -/
theorem witness_AnySingleBitChangeChangesTheCrc : 0 < [0x01#8].length ∧ 7 < 8 := by decide
/-- Counts 1 and 8, each with exactly the room its frame needs. -/
theorem witness_EncodeRemoteControlWritesItsFrame :
    (1 ≤ (rcIn 1 [500]).channelCount.toNat ∧ (rcIn 1 [500]).channelCount.toNat ≤ 8 ∧
      7 + 2 * (rcIn 1 [500]).channelCount.toNat ≤ 9) ∧
    1 ≤ (rcIn 8 []).channelCount.toNat ∧ (rcIn 8 []).channelCount.toNat ≤ 8 ∧
      7 + 2 * (rcIn 8 []).channelCount.toNat ≤ 23 := by decide
theorem witness_EncodeTelemetryWritesItsFrame : 20 ≤ ({ base := 5, cap := 20 } : Dest).cap := by decide
theorem witness_EncodeHeartbeatWritesItsFrame : 7 ≤ ({ base := 5, cap := 7 } : Dest).cap := by decide
/-- Lengths 0 and 32, each with exactly the room its frame needs. -/
theorem witness_EncodeExtendedCommandWritesItsFrame :
    ((extIn 0 0 []).paramLen.toNat ≤ 32 ∧ 8 + (extIn 0 0 []).paramLen.toNat ≤ 8) ∧
    (extIn 0 32 []).paramLen.toNat ≤ 32 ∧ 8 + (extIn 0 32 []).paramLen.toNat ≤ 40 := by decide
/-- Counts 0 and 9; one byte short for a count of 8; 33 parameters; one byte short for each other encode. -/
theorem witness_EncodeFailuresFollowThePriorityOrder :
    (rcIn 0 []).channelCount.toNat = 0 ∧ 9 ≤ (rcIn 9 []).channelCount.toNat ∧
    22 < 7 + 2 * (rcIn 8 []).channelCount.toNat ∧ 32 < (extIn 0 33 []).paramLen.toNat ∧
    39 < 8 + (extIn 0 32 []).paramLen.toNat ∧ 19 < 20 ∧ 6 < 7 := by decide
/-- Each encode command with its reply and a readable OUT. -/
theorem witness_DecodingAnEncodedFrameGivesItsFieldsBack :
    (replyOf (exec (.encRc .A (rcIn 8 []) room) liveState) = some { status := .ok, results := .frameLen 23 } ∧
      (outOf (exec (.encRc .A (rcIn 8 []) room) liveState) 23).isSome = true) ∧
    (replyOf (exec (.encTlm .A tlmEx room) liveState) = some { status := .ok, results := .frameLen 20 } ∧
      (outOf (exec (.encTlm .A tlmEx room) liveState) 20).isSome = true) ∧
    (replyOf (exec (.encHb .A 3#8 room) liveState) = some { status := .ok, results := .frameLen 7 } ∧
      (outOf (exec (.encHb .A 3#8 room) liveState) 7).isSome = true) ∧
    replyOf (exec (.encExt .A (extIn 0 32 []) room) liveState) = some { status := .ok, results := .frameLen 40 } ∧
      (outOf (exec (.encExt .A (extIn 0 32 []) room) liveState) 40).isSome = true := by decide +kernel
/-- One span for each clause: 1 byte; a mismatch in either sync byte; 2, 3 and 5 bytes; the smallest whole frame. -/
theorem witness_DecodeTestsItsCausesInOrder :
    (bytes [0x00]).length < 2 ∧ (bytes [0xAB, 0x55]).getD 0 0#8 ≠ 0xAA#8 ∧ (bytes [0xAA, 0x54]).getD 1 0#8 ≠ 0x55#8 ∧
    (bytes [0xAA, 0x55]).length = 2 ∧ (bytes [0xAA, 0x55, 0x00]).getD 2 0#8 = 0#8 ∧
    (bytes [0xAA, 0x55, 0x01, 0x00, 0x00]).length < ((bytes [0xAA, 0x55, 0x01, 0x00, 0x00]).getD 2 0#8).toNat + 5 ∧
    CompleteFrame (bytes [0xAA, 0x55, 0x01, 0x00, 0x00, 0x20]) 1 := by
  unfold CompleteFrame; decide
theorem witness_DecodeParsesRemoteControl : CompleteFrame rc2 6 ∧ rc2.getD 3 0#8 = 0x01#8 := by
  unfold CompleteFrame; decide
theorem witness_DecodeParsesTelemetry : CompleteFrame tlmFrame 15 ∧ tlmFrame.getD 3 0#8 = 0x02#8 := by
  unfold CompleteFrame; decide
theorem witness_DecodeParsesHeartbeatAndExtendedCommand :
    CompleteFrame hb1 2 ∧ hb1.getD 3 0#8 = 0x03#8 ∧ CompleteFrame ext3 6 ∧ ext3.getD 3 0#8 = 0x04#8 := by
  unfold CompleteFrame; decide
/-- Types 0x00 and 0x05, on both sides of the known ones. -/
theorem witness_DecodeKeepsUnknownTypesRaw :
    CompleteFrame (bytes [0xAA, 0x55, 0x01, 0x00, 0x00, 0x20]) 1 ∧
    CompleteFrame (bytes [0xAA, 0x55, 0x01, 0x05, 0x00, 0x20]) 1 ∧
    ∀ t ∈ [0x00#8, 0x05#8], t ≠ 0x01#8 ∧ t ≠ 0x02#8 ∧ t ≠ 0x03#8 ∧ t ≠ 0x04#8 := by
  unfold CompleteFrame; decide
theorem witness_DecodeRunsTheRowItsSpanSelects :
    (∃ i, decode (.span .A hb1) = .ok i) ∧ ∃ r, decode (.span .A (hb1.take 6)) = .error r := ⟨⟨_, rfl⟩, ⟨_, rfl⟩⟩
/-- A span for each answer. -/
theorem witness_DecodeReadsOnlyThePrefixItNeeds :
    (∃ F c, decodeSpan .A (hb1 ++ [0x99#8]) = .ok (.ok F c)) ∧
    decodeSpan .A (bytes [0xAA, 0x55, 0x00]) = .ok .invalidHeader ∧ decodeSpan .A [0x00#8] = .ok .incomplete :=
  ⟨⟨_, _, rfl⟩, rfl, rfl⟩
def okOf (r : Except Fault DecodeResult) : Option DecodeResult :=
  match r with
  | .ok x => some x
  | .error _ => none
theorem hb1_decodes : decodeSpan .A hb1 = .ok (.ok (hbFrame true 0x01#8) hb1.length) := by
  have h : okOf (decodeSpan .A hb1) = some (.ok (hbFrame true 0x01#8) hb1.length) := by decide +kernel
  revert h
  cases decodeSpan .A hb1 with
  | ok r => intro h; exact congrArg Except.ok (Option.some.inj h)
  | error x => intro h; cases h
/-- A header bit and the first bit behind the length byte. -/
theorem witness_OneFlippedBitOutsideTheLengthByteIsDetected :
    decodeSpan .A hb1 = .ok (.ok (hbFrame true 0x01#8) hb1.length) ∧ (hbFrame true 0x01#8).crcOk = true ∧
    (1 < hb1.length ∧ 1 < 2) ∧ (3 < hb1.length ∧ 3 ≤ 3) ∧ 7 < 8 := ⟨hb1_decodes, rfl, by decide, by decide, by decide⟩
theorem witness_DeadInstanceStaysDeadUntilReset :
    liveState.insts[1]? = some deadInst ∧ deadInst.dead = true ∧ (∀ prof, Instr.rdstat 1 ≠ .reset 1 prof) ∧
    ∃ t, exec (.rdstat 1) liveState = .next t :=
  ⟨rfl, rfl, (fun _ h => by cases h), exists_next (by decide +kernel)⟩
/-- One byte more than fits. -/
theorem witness_OverflowDropsTheBufferAndSetsDead :
    liveState.insts[0]? = some (holding .A (bytes [0xAA, 0x55, 0x02])) ∧
    (holding .A (bytes [0xAA, 0x55, 0x02])).dead = false ∧
    liveState.params.cap < (holding .A (bytes [0xAA, 0x55, 0x02])).len + (List.replicate 258 0#8).length := by
  refine ⟨rfl, rfl, by decide +kernel⟩
/-- A chunk that makes LEN exactly CAP. -/
theorem witness_FeedRunsTheStreamToItsFixedPoint :
    liveState.insts[0]? = some (holding .A (bytes [0xAA, 0x55, 0x02])) ∧
    (holding .A (bytes [0xAA, 0x55, 0x02])).Holds (bytes [0xAA, 0x55, 0x02]) ∧
    (bytes [0xAA, 0x55, 0x02]).length + (List.replicate 257 0#8).length ≤ liveState.params.cap :=
  ⟨rfl, live_holds, by decide +kernel⟩
/-- A skipped byte, an emitted frame and a rest. -/
theorem witness_StreamRunIsUnique :
    Machine.Stream .A (0x00#8 :: (hb1 ++ [])) [hbFrame true 0x01#8] [] := by
  refine .skip rfl (.emit (by simpa using hb1_decodes) ?_)
  exact .stop rfl
/-- A well-formed term for each clause: the shortest payload, the longest one, both types next to the known ones, and
sync bytes that miss by one bit. -/
theorem witness_FrameRowsAnswerTheirDispatchCase :
    (Instr.badSync 0xAA#8 0x54#8).wf = true ∧ (Instr.badSync 0xAB#8 0x55#8).wf = true ∧
    ∀ f ∈ [({ len := 0x01#8, payload := [], rxCrc := 0#16 } : FrameFields),
        { len := 0xFF#8, payload := List.replicate 254 0#8, rxCrc := 0#16 }],
      (Instr.frameRc f).wf = true ∧ (Instr.frameTlm f).wf = true ∧ (Instr.frameHb f).wf = true ∧
      (Instr.frameExt f).wf = true ∧ (Instr.frameRaw 0x00#8 f).wf = true ∧ (Instr.frameRaw 0x05#8 f).wf = true := by
  decide +kernel
theorem witness_ChunkingDoesNotMatter :
    liveState.Inv ∧ ([bytes [0x03, 0x01], bytes [0x11, 0x30]]).flatten = ([bytes [0x03, 0x01, 0x11, 0x30], []]).flatten ∧
    (runFeeds 0 liveState [bytes [0x03, 0x01], bytes [0x11, 0x30]]).isSome = true ∧
    (runFeeds 0 liveState [bytes [0x03, 0x01, 0x11, 0x30], []]).isSome = true :=
  ⟨live_inv, rfl, by decide +kernel, by decide +kernel⟩
/-- Garbage 13 AA before a frame: the last garbage byte and the frame's first byte are AA AA. -/
theorem witness_GarbageBeforeAFrameIsSkipped :
    State.reset.insts[0]? = some (Instance.fresh .A) ∧
    decodeSpan .A hb1 = .ok (.ok (hbFrame true 0x01#8) hb1.length) ∧
    (∀ i, i + 1 < (bytes [0x13, 0xAA]).length →
      ¬((bytes [0x13, 0xAA]).getD i 0#8 = 0xAA#8 ∧ (bytes [0x13, 0xAA]).getD (i + 1) 0#8 = 0x55#8)) ∧
    (bytes [0x13, 0xAA]).length + hb1.length ≤ State.reset.params.cap := by
  refine ⟨rfl, hb1_decodes, fun i h => ?_, by decide⟩
  have : i = 0 := by simp [bytes] at h; omega
  subst this; decide
theorem witness_ZeroLengthFeedChangesNothing :
    liveState.Inv ∧ liveState.insts[0]? = some (holding .A (bytes [0xAA, 0x55, 0x02])) := ⟨live_inv, rfl⟩
/-- AA 55 02 with 3 bytes more (too short by one) and with 4 (the whole frame). -/
theorem witness_AHeaderHoldsBackWhatFollowsIt :
    (bytes [0xAA, 0x55, 0x02] ++ bytes [3, 1, 0x11]).length + 1 =
      ((bytes [0xAA, 0x55, 0x02] ++ bytes [3, 1, 0x11]).getD 2 0#8).toNat + 5 ∧
    (bytes [0xAA, 0x55, 0x02] ++ bytes [3, 1, 0x11, 0x30]).length =
      ((bytes [0xAA, 0x55, 0x02] ++ bytes [3, 1, 0x11, 0x30]).getD 2 0#8).toNat + 5 ∧
    (∃ t, exec (.feed 0 (bytes [3, 1, 0x11])) liveState = .next t) ∧
    ∃ t, exec (.feed 0 (bytes [3, 1, 0x11, 0x30])) liveState = .next t :=
  ⟨by decide, by decide, exists_next (by decide +kernel), exists_next (by decide +kernel)⟩
/-- A RESET that changes the profile and clears DEAD, and a FEED that sets DEAD. -/
theorem witness_ProfileAndDeadChangeOnlyByTheirCommands :
    (nextOf (exec (.reset 1 .A) liveState)).bind (fun t => t.insts[1]?) = some (Instance.fresh .A) ∧
    deadInst.profile ≠ (Instance.fresh .A).profile ∧ deadInst.dead = true ∧
    lenDead (exec (.feed 0 (List.replicate 258 0#8)) liveState) 0 = some (0, true) := by decide +kernel
/-- CAP - 259 and CAP - LEN bytes. -/
theorem witness_BoundedChunksNeverOverflow :
    liveState.Inv ∧ [0#8].length ≤ liveState.params.cap - 259 ∧
    (List.replicate 257 0#8).length ≤ liveState.params.cap - (holding .A (bytes [0xAA, 0x55, 0x02])).len :=
  ⟨live_inv, by decide, by decide +kernel⟩
theorem witness_ResetLeavesAnEmptyLiveInstance : 1 < liveState.insts.length := by decide
theorem witness_RdstatReadsTheStatusWord :
    liveState.insts[1]? = some deadInst := by decide
/-- Types 0x00 and 0x05. -/
theorem witness_PseudoCommandsExpandAsWritten :
    liveState.insts[1]? = some deadInst ∧ (0x00#8 : Byte).toNat = 0 ∧ 5 ≤ (0x05#8 : Byte).toNat := by decide
/-- The longest lists. -/
theorem witness_AssembledLinesDecodeToTheirCommand :
    (∃ i, (AsmLine.rdstat 0).instr liveState = some i) ∧ (List.replicate 8 1#16).length ≤ 8 ∧
    (List.replicate 32 1#8).length ≤ 32 := ⟨⟨_, rfl⟩, by decide, by decide⟩

end Sys2Proof.Tests
end

/-! PROOFS. The frame decoder reads no byte outside its span (00_scope R12), and what follows for requests. -/

namespace Sys2Proof

open Sys2Proof.Machine

/-- In each case of `span_cases` the decoder answers a row or INCOMPLETE. -/
theorem decodeFrame_ne_readOutsideSpan (prof : Profile) (S : Span) :
    decodeFrame prof S ≠ .error .readOutsideSpan := by
  obtain h | ⟨b0, b1, R, rfl, h⟩ | rfl | ⟨R, rfl⟩ | ⟨L, R, rfl, hL, h⟩ | ⟨L, t, P, lo, hi, R, rfl, hL⟩ :=
    span_cases S
  · simp [decodeFrame_short prof S h]
  · simp [decodeFrame_badSync prof b0 b1 R h]
  · simp [decodeFrame_header]
  · simp [decodeFrame_len0]
  · simp [decodeFrame_partial prof L R hL h]
  · simp [decodeFrame_complete prof L t lo hi P R hL]

/-- `DECODE` always has an answer. -/
theorem exists_decodeSpan_eq_ok (prof : Profile) (S : Span) : ∃ r, decodeSpan prof S = .ok r := by
  unfold decodeSpan
  cases h : decodeFrame prof S with
  | ok row => exact ⟨rowResult row, rfl⟩
  | error r =>
    cases r with
    | incomplete => exact ⟨.incomplete, rfl⟩
    | readOutsideSpan => exact absurd h (decodeFrame_ne_readOutsideSpan prof S)

/-- A request without an instruction is a span that is too short to select a row. -/
theorem decode_ne_readOutsideSpan (q : Request) : decode q ≠ .error .readOutsideSpan := by
  cases q with
  | command op a => simp [decode]
  | span prof S =>
    have hread := decodeFrame_ne_readOutsideSpan prof S
    cases h : decodeFrame prof S with
    | ok row => simp [decode, h]
    | error r => simpa [decode, h] using hread

/-- Settles O11, by the cases of a span. -/
theorem decodingNeverReadsOutsideTheSpan : Obligations.DecodingNeverReadsOutsideTheSpan :=
  fun prof S => ⟨decodeFrame_ne_readOutsideSpan prof S, exists_decodeSpan_eq_ok prof S⟩

end Sys2Proof

/-! PROOFS. What a step is, by what stands at the head of the stream (20_memory R56). -/

namespace Sys2Proof.Machine

/-- Nothing issued. -/
theorem step_of_pending_nil {s : State} (hp : s.pending = []) : step s = .next s := by
  simp [step, idle, fetch_nil s hp]

section issued
variable {s : State} {iss : Issue} {rest : List Issue} {i : Instr} (hp : s.pending = iss :: rest)
include hp

/-- A request without an instruction is rejected. -/
theorem step_of_decode_error {r : Reject} (hd : decode iss.request = .error r) :
    step s = rejected r { s with pending := rest } := by
  simp [step, fetch_cons s iss rest hp, hd]

/-- A request that its context does not admit. -/
theorem step_of_issueRefusal {x : Refusal} (hd : decode iss.request = .ok i)
    (ha : issueRefusal iss.ctx i = some x) : step s = .refused x := by
  simp [step, fetch_cons s iss rest hp, hd, ha]

/-- An admitted request. -/
theorem step_of_admitted (hd : decode iss.request = .ok i) (ha : issueRefusal iss.ctx i = none) :
    step s = exec i { s with pending := rest } := by
  simp [step, fetch_cons s iss rest hp, hd, ha]

end issued

/-- Settles O12, by the equations of `step`. -/
theorem stepRunsTheDecodedRequest : Obligations.StepRunsTheDecodedRequest :=
  ⟨fun _ _ _ _ hp hd ha => step_of_admitted hp hd ha, fun _ _ _ hp hd => step_of_decode_error hp hd,
    fun _ hp => step_of_pending_nil hp⟩

end Sys2Proof.Machine

/-! PROOFS. Under the invariant every instruction completes, or is refused because the instance it names does not
exist (30_encoding R77); no step faults (00_scope R12, 10_state R34). -/

namespace Sys2Proof.Machine

/-! ### FEED -/

/-- Each pass of the decode loop has a decode result, so the loop has one. -/
theorem exists_decodeLoop_eq_ok (prof : Profile) (B : Span) (fuel cur : Nat) (fs : List ParsedFrame) :
    ∃ cur' fs', decodeLoop prof B fuel cur fs = .ok (cur', fs') := by
  induction fuel generalizing cur fs with
  | zero => exact ⟨cur, fs, rfl⟩
  | succ fuel ih =>
    obtain ⟨r, hr⟩ := exists_decodeSpan_eq_ok prof (B.drop cur)
    cases r with
    | incomplete => exact ⟨cur, fs, by simp [decodeLoop, hr]⟩
    | invalidHeader => simpa [decodeLoop, hr] using ih (cur + 1) fs
    | ok F c => simpa [decodeLoop, hr] using ih (cur + c) (fs ++ [F])

/-- FEED of a live instance that holds H decodes `H ++ S` and keeps what is behind the cursor
(43_reassembler R162, R164). -/
theorem feedLive_of_holds {inst : Instance} {H : Span} (hH : inst.Holds H) (S : Span) :
    ∃ cur fs, decodeLoop inst.profile (H ++ S) ((H ++ S).length + 1) 0 [] = .ok (cur, fs) ∧
      feedLive inst S = .ok ({ inst with buf := Memory.ofSpan ((H ++ S).drop cur), len := (H ++ S).length - cur },
        okFrames fs) := by
  obtain ⟨hbuf, hlen⟩ := hH
  obtain ⟨cur, fs, hloop⟩ := exists_decodeLoop_eq_ok inst.profile (H ++ S) ((H ++ S).length + 1) 0 []
  refine ⟨cur, fs, hloop, ?_⟩
  have hread := Memory.readSpan_ofSpan (H ++ S)
  rw [List.length_append] at hloop hread ⊢
  simp [feedLive, hbuf, hlen, Memory.writeSpan_ofSpan, hread, hloop, okFrames]

/-- FEED on an instance that meets 10_state R35 reads only bytes that hold a value. -/
theorem exists_feedInst_eq_ok {cap : Nat} {inst : Instance} (hinv : inst.Inv cap) (S : Span) :
    ∃ inst' r, feedInst cap inst S = .ok (inst', r) := by
  obtain ⟨-, h⟩ | ⟨-, -, h⟩ | ⟨-, -, h⟩ := feedInst_cases cap inst S
  · exact ⟨_, _, h⟩
  · exact ⟨_, _, h⟩
  · obtain ⟨H, hH, -, -⟩ := hinv.held
    obtain ⟨_, _, -, hlive⟩ := feedLive_of_holds hH S
    exact ⟨_, _, h.trans hlive⟩

/-! ### Completion -/

/-- The outcome of an instruction that runs from s to its end: a next state with a reply and the same stream. -/
def Completes (s : State) (o : Host.Outcome State Fault Refusal) : Prop :=
  ∃ t r, o = .next t ∧ t.reply = some r ∧ t.pending = s.pending

/-- The outcome of an instruction whose instance does not exist. -/
def RefusesInst (s : State) (i : Instr) (o : Host.Outcome State Fault Refusal) : Prop :=
  ∃ k, i.namedInst = some k ∧ s.insts[k]? = none ∧ o = .refused (.noSuchInstance k)

theorem completes_answer (s : State) (r : Reply) : Completes s (.next (s.answer r)) :=
  ⟨s.answer r, r, rfl, rfl, rfl⟩

theorem completes_failEncode (s : State) (d : Dest) (st : Status) : Completes s (.next (s.failEncode d st)) :=
  ⟨s.failEncode d st, _, rfl, rfl, rfl⟩

theorem completes_emitFrame (prof : Profile) (t : Byte) (P : Span) (d : Dest) (s : State) :
    Completes s (emitFrame prof t P d s) := by
  obtain ⟨-, h⟩ | ⟨-, h⟩ := emitFrame_cases prof t P d s
  · rw [h]; exact completes_failEncode s d _
  · exact ⟨_, _, h, rfl, rfl⟩

theorem completes_execEncRc (prof : Profile) (input : RcInput) (d : Dest) (s : State) :
    Completes s (execEncRc prof input d s) := by
  unfold execEncRc
  split
  · exact completes_failEncode s d _
  · exact completes_emitFrame prof _ _ d s

theorem completes_execEncExt (prof : Profile) (input : ExtInput) (d : Dest) (s : State) :
    Completes s (execEncExt prof input d s) := by
  unfold execEncExt
  split
  · exact completes_failEncode s d _
  · exact completes_emitFrame prof _ _ d s

theorem completes_execDecode (prof : Profile) (S : Span) (s : State) : Completes s (execDecode prof S s) := by
  obtain ⟨r, hr⟩ := exists_decodeSpan_eq_ok prof S
  simpa [execDecode, hr] using completes_answer s r.reply

/-- A command that names an instance completes when its meaning does on every instance of the state. -/
theorem onInst_completes_or_refuses {s : State} {i : Instr} {k : Nat} (hk : i.namedInst = some k)
    {f : Instance → Host.Outcome State Fault Refusal} (hf : ∀ inst ∈ s.insts, Completes s (f inst)) :
    Completes s (s.onInst k f) ∨ RefusesInst s i (s.onInst k f) := by
  obtain ⟨hnone, h⟩ | ⟨inst, hsome, h⟩ := onInst_cases s k f
  · exact .inr ⟨k, hk, hnone, h⟩
  · exact .inl (h ▸ hf inst (List.mem_of_getElem? hsome))

/-- FEED completes on an instance that meets 10_state R35, dead, overflowing or live. -/
theorem execFeed_completes_or_refuses {s : State} (hinv : ∀ inst ∈ s.insts, inst.Inv s.params.cap) (k : Nat)
    (S : Span) : Completes s (execFeed k S s) ∨ RefusesInst s (.feed k S) (execFeed k S s) := by
  unfold execFeed
  refine onInst_completes_or_refuses rfl fun inst hmem => ?_
  obtain ⟨inst', r, h⟩ := exists_feedInst_eq_ok (hinv inst hmem) S
  simp only [h]
  exact completes_answer (s.setInst k inst') r

/-- Every instruction completes from a state whose instances meet 10_state R35, or names an instance that does
not exist (60_exceptions R215). -/
theorem exec_completes_or_refuses {s : State} (hinv : ∀ inst ∈ s.insts, inst.Inv s.params.cap) (i : Instr) :
    Completes s (exec i s) ∨ RefusesInst s i (exec i s) := by
  cases i with
  | crc16 S => exact .inl (completes_answer s _)
  | encRc prof input d => exact .inl (completes_execEncRc prof input d s)
  | encTlm prof input d => exact .inl (completes_emitFrame prof _ _ d s)
  | encHb prof st d => exact .inl (completes_emitFrame prof _ _ d s)
  | encExt prof input d => exact .inl (completes_execEncExt prof input d s)
  | decode prof S => exact .inl (completes_execDecode prof S s)
  | feed k S => exact execFeed_completes_or_refuses hinv k S
  | reset k prof => exact onInst_completes_or_refuses rfl fun _ _ => completes_answer (s.setInst k _) _
  | rdstat k => exact onInst_completes_or_refuses rfl fun _ _ => completes_answer s _
  | illegal op => exact .inl (completes_answer s _)
  | invalidLen0 => exact .inl (completes_answer s _)
  | frameRc f => exact .inl (completes_answer s _)
  | frameTlm f => exact .inl (completes_answer s _)
  | frameHb f => exact .inl (completes_answer s _)
  | frameExt f => exact .inl (completes_answer s _)
  | frameRaw t f => exact .inl (completes_answer s _)
  | badSync b0 b1 => exact .inl (completes_answer s _)

/-! ### No fault -/

theorem exec_ne_fault {s : State} (hinv : ∀ inst ∈ s.insts, inst.Inv s.params.cap) (i : Instr) (x : Fault) :
    exec i s ≠ .fault x := by
  obtain ⟨t, r, h, -, -⟩ | ⟨k, -, -, h⟩ := exec_completes_or_refuses hinv i <;> simp [h]

/-- Settles O10: a step idles, rejects a short span, refuses, or runs an instruction that does not fault. -/
theorem noStepFaultsUnderTheInvariant : Obligations.NoStepFaultsUnderTheInvariant := by
  intro s x hinv
  cases hp : s.pending with
  | nil => simp [step_of_pending_nil hp]
  | cons iss rest =>
    cases hd : decode iss.request with
    | error r =>
      cases r with
      | incomplete => simp [step_of_decode_error hp hd, rejected]
      | readOutsideSpan => exact absurd hd (decode_ne_readOutsideSpan iss.request)
    | ok i =>
      cases ha : issueRefusal iss.ctx i with
      | some y => simp [step_of_issueRefusal hp hd ha]
      | none =>
        rw [step_of_admitted hp hd ha]
        exact exec_ne_fault (s := { s with pending := rest }) hinv.insts_inv i x

end Sys2Proof.Machine

/-! PROOFS. What the decoder gives is well formed: the instruction of a request (30_encoding R62, R66, R76) and the
frame of a decode result (10_state R27, R28); a result that consumes bytes consumes at least one. -/

namespace Sys2Proof

open Sys2Proof.Machine

/-! ### The instruction of a request -/

/-- The type byte selects RAW for the types of 30_encoding R66 alone. -/
theorem rowOfType_toInstr_wf (t : Byte) {f : FrameFields} (hf : f.wf = true) :
    (rowOfType t f).toInstr.wf = true := by
  unfold rowOfType
  split_ifs with h1 h2 h3 h4
  · exact hf
  · exact hf
  · exact hf
  · exact hf
  · simp [FrameRow.toInstr, Instr.wf, unknownType, h1, h2, h3, h4, hf]

/-- In each case of `span_cases` the row a span selects is well formed. -/
theorem decodeFrame_toInstr_wf {prof : Profile} {S : Span} {row : FrameRow} (h : decodeFrame prof S = .ok row) :
    row.toInstr.wf = true := by
  obtain hS | ⟨b0, b1, R, rfl, hb⟩ | rfl | ⟨R, rfl⟩ | ⟨L, R, rfl, hL, hR⟩ | ⟨L, t, P, lo, hi, R, rfl, hL⟩ :=
    span_cases S
  · simp [decodeFrame_short prof S hS] at h
  · rw [decodeFrame_badSync prof b0 b1 R hb] at h
    cases h
    simpa [FrameRow.toInstr, Instr.wf, imp_iff_not_or] using hb
  · simp [decodeFrame_header] at h
  · rw [decodeFrame_len0] at h
    cases h
    rfl
  · simp [decodeFrame_partial prof L R hL hR] at h
  · rw [decodeFrame_complete prof L t lo hi P R hL] at h
    cases h
    exact rowOfType_toInstr_wf t (by simp [FrameFields.wf, hL])

/-- The opcode map gives an illegal command for the opcodes of 30_encoding R76 alone. -/
theorem decodeCommand_wf (op : Byte) (a : Operands) : (decodeCommand op a).wf = true := by
  unfold decodeCommand
  split_ifs
  case neg => simp [Instr.wf, definedOpcodes, *]
  all_goals rfl

theorem decode_wf {q : Request} {i : Instr} (h : decode q = .ok i) : i.wf = true := by
  cases q with
  | command op a =>
    cases h
    exact decodeCommand_wf op a
  | span prof S =>
    cases hrow : decodeFrame prof S with
    | ok row =>
      simp only [decode, hrow, Except.ok.injEq] at h
      exact h ▸ decodeFrame_toInstr_wf hrow
    | error r => simp [decode, hrow] at h

end Sys2Proof

namespace Sys2Proof.Machine

/-! ### The frame of a decode result -/

theorem toNat_u8 {n : Nat} (h : n < 256) : (u8 n).toNat = n := by
  simp [u8, Nat.mod_eq_of_lt h]

theorem parseRc_wf (P : Span) (crcOk : Bool) : ParsedFrame.wf ⟨0x01#8, crcOk, .rc (parseRc P)⟩ := by
  have hle : rcCount P ≤ 8 := (min_le_right _ _).trans (min_le_left _ _)
  have hcount : (parseRc P).channelCount.toNat = rcCount P := toNat_u8 (by omega)
  refine ⟨rfl, hcount.trans_le hle, fun i hi => ?_⟩
  rw [hcount] at hi
  simp [parseRc, hi]

theorem parseExt_wf (P : Span) (crcOk : Bool) : ParsedFrame.wf ⟨0x04#8, crcOk, .ext (parseExt P)⟩ := by
  have hle : extLen P ≤ 32 := (min_le_right _ _).trans (min_le_left _ _)
  have hlen : (parseExt P).paramLen.toNat = extLen P := toNat_u8 (by omega)
  refine ⟨rfl, hlen.trans_le hle, fun j hj => ?_⟩
  rw [hlen] at hj
  simp [parseExt, hj]

theorem parseRaw_wf {t : Byte} (ht : unknownType t = true) {P : Span} (hP : P.length ≤ 254) (crcOk : Bool) :
    ParsedFrame.wf ⟨t, crcOk, .raw (parseRaw P)⟩ := by
  have hlen : (parseRaw P).rawLen.toNat = P.length := toNat_u8 (by omega)
  refine ⟨ht, hlen.trans_le hP, fun j hj => ?_⟩
  rw [hlen] at hj
  simp [parseRaw, g_of_ge hj]

/-- The length byte counts the type byte too, so at most 254 payload bytes stand behind it. -/
theorem FrameFields.payload_length_le {f : FrameFields} (hf : f.wf = true) : f.payload.length ≤ 254 := by
  have hL : f.len.toNat = f.payload.length + 1 := by simpa [FrameFields.wf] using hf
  have hlt := f.len.isLt
  omega

/-- The frame of a well-formed row is one of the records of 10_state R28. -/
theorem rowResult_frame_wf {row : FrameRow} (hrow : row.toInstr.wf = true) {F : ParsedFrame} {c : Nat}
    (h : rowResult row = .ok F c) : F.wf := by
  cases row with
  | invalidLen0 => cases h
  | rc f => cases h; exact parseRc_wf _ _
  | tlm f => cases h; rfl
  | hb f => cases h; rfl
  | ext f => cases h; exact parseExt_wf _ _
  | raw t f =>
    cases h
    obtain ⟨ht, hf⟩ : unknownType t = true ∧ f.wf = true := by
      simpa [FrameRow.toInstr, Instr.wf] using hrow
    exact parseRaw_wf ht (FrameFields.payload_length_le hf) _
  | badSync b0 b1 => cases h

theorem rowResult_consumed_pos {row : FrameRow} {F : ParsedFrame} {c : Nat} (h : rowResult row = .ok F c) :
    0 < c := by
  cases row with
  | invalidLen0 => cases h
  | rc f => cases h; exact Nat.succ_pos _
  | tlm f => cases h; exact Nat.succ_pos _
  | hb f => cases h; exact Nat.succ_pos _
  | ext f => cases h; exact Nat.succ_pos _
  | raw t f => cases h; exact Nat.succ_pos _
  | badSync b0 b1 => cases h

theorem decodeSpan_short (prof : Profile) {S : Span} (h : S.length < 2) :
    decodeSpan prof S = .ok .incomplete := by
  simp [decodeSpan, decodeFrame_short prof S h]

/-- An OK result of `DECODE` is that of the row its span selects. -/
theorem exists_row_of_decodeSpan_eq_ok {prof : Profile} {S : Span} {F : ParsedFrame} {c : Nat}
    (h : decodeSpan prof S = .ok (.ok F c)) :
    ∃ row, decodeFrame prof S = .ok row ∧ rowResult row = .ok F c := by
  cases hrow : decodeFrame prof S with
  | ok row => exact ⟨row, rfl, by simpa [decodeSpan, hrow] using h⟩
  | error r => cases r <;> simp [decodeSpan, hrow] at h

theorem decodeSpan_frame_wf {prof : Profile} {S : Span} {F : ParsedFrame} {c : Nat}
    (h : decodeSpan prof S = .ok (.ok F c)) : F.wf := by
  obtain ⟨row, hrow, hF⟩ := exists_row_of_decodeSpan_eq_ok h
  exact rowResult_frame_wf (decodeFrame_toInstr_wf hrow) hF

theorem decodeSpan_consumed_pos {prof : Profile} {S : Span} {F : ParsedFrame} {c : Nat}
    (h : decodeSpan prof S = .ok (.ok F c)) : 0 < c := by
  obtain ⟨row, -, hF⟩ := exists_row_of_decodeSpan_eq_ok h
  exact rowResult_consumed_pos hF

/-- A decode reply carries the frame of its result and no other. -/
theorem DecodeResult.wf_of_mem_frames_reply {r : DecodeResult} (hr : ∀ F c, r = .ok F c → F.wf) :
    ∀ F ∈ r.reply.frames, F.wf := by
  cases r with
  | incomplete => simp [DecodeResult.reply, Reply.frames]
  | invalidHeader => simp [DecodeResult.reply, Reply.frames]
  | ok F c => simpa [DecodeResult.reply, Reply.frames] using hr F c rfl

/-! ### The decode loop -/

/-- One pass of the decode loop exits, skips a byte, or emits a frame (43_reassembler R162). -/
theorem decodeLoop_succ_cases {prof : Profile} {B : Span} {fuel cur cur' : Nat} {fs fs' : List ParsedFrame}
    (h : decodeLoop prof B (fuel + 1) cur fs = .ok (cur', fs')) :
    (decodeSpan prof (B.drop cur) = .ok .incomplete ∧ cur' = cur ∧ fs' = fs) ∨
    (decodeSpan prof (B.drop cur) = .ok .invalidHeader ∧
      decodeLoop prof B fuel (cur + 1) fs = .ok (cur', fs')) ∨
    ∃ F c, decodeSpan prof (B.drop cur) = .ok (.ok F c) ∧
      decodeLoop prof B fuel (cur + c) (fs ++ [F]) = .ok (cur', fs') := by
  obtain ⟨r, hr⟩ := exists_decodeSpan_eq_ok prof (B.drop cur)
  simp only [decodeLoop, hr] at h
  cases r with
  | incomplete => cases h; exact .inl ⟨hr, rfl, rfl⟩
  | invalidHeader => exact .inr (.inl ⟨hr, h⟩)
  | ok F c => exact .inr (.inr ⟨F, c, hr, h⟩)

/-- Fuel past the end of the buffer suffices: every pass that does not exit raises the cursor, and a cursor at the
end decodes INCOMPLETE (43_reassembler R166). -/
theorem decodeLoop_stops_incomplete {prof : Profile} {B : Span} {fuel cur cur' : Nat} {fs fs' : List ParsedFrame}
    (hfuel : B.length < cur + fuel) (h : decodeLoop prof B fuel cur fs = .ok (cur', fs')) :
    decodeSpan prof (B.drop cur') = .ok .incomplete := by
  induction fuel generalizing cur fs with
  | zero =>
    cases h
    exact decodeSpan_short prof (by rw [List.length_drop]; omega)
  | succ fuel ih =>
    obtain ⟨hr, rfl, -⟩ | ⟨-, hrest⟩ | ⟨F, c, hr, hrest⟩ := decodeLoop_succ_cases h
    · exact hr
    · exact ih (by omega) hrest
    · have hc := decodeSpan_consumed_pos hr
      exact ih (by omega) hrest

theorem decodeLoop_frames_wf {prof : Profile} {B : Span} {fuel cur cur' : Nat} {fs fs' : List ParsedFrame}
    (hfs : ∀ F ∈ fs, F.wf) (h : decodeLoop prof B fuel cur fs = .ok (cur', fs')) : ∀ F ∈ fs', F.wf := by
  induction fuel generalizing cur fs with
  | zero => cases h; exact hfs
  | succ fuel ih =>
    obtain ⟨-, -, rfl⟩ | ⟨-, hrest⟩ | ⟨F, c, hr, hrest⟩ := decodeLoop_succ_cases h
    · exact hfs
    · exact ih hfs hrest
    · refine ih (fun G hG => ?_) hrest
      obtain hG | rfl : G ∈ fs ∨ G = F := by simpa using hG
      · exact hfs G hG
      · exact decodeSpan_frame_wf hr

end Sys2Proof.Machine

/-! PROOFS. What an instruction that runs to its end does to the state, said once (20_memory R49). -/

namespace Sys2Proof.Machine

/-- The effects an instruction can have: a reply alone, with well-formed frames where the instruction is well formed;
an encode's frame or its failure; FEED and RESET of the instance they name. -/
inductive Effect (i : Instr) (s : State) : State → Prop where
  | reply (r : Reply) : (i.wf = true → ∀ F ∈ r.frames, F.wf) → Effect i s (s.answer r)
  | emit (d : Dest) (F : Span) : destOf i = some d → F.length ≤ d.cap →
      Effect i s (({ s with out := Memory.writeSpan s.out d.base F } : State).answer
        { status := .ok, results := .frameLen F.length })
  | fail (d : Dest) (st : Status) : destOf i = some d → Effect i s (s.failEncode d st)
  | feed (k : Nat) (S : Span) (inst inst' : Instance) (r : Reply) : i = .feed k S → s.insts[k]? = some inst →
      feedInst s.params.cap inst S = .ok (inst', r) → Effect i s ((s.setInst k inst').answer r)
  | reset (k : Nat) (prof : Profile) : i = .reset k prof →
      Effect i s ((s.setInst k (Instance.fresh prof)).answer { status := .ok, results := .nothing })

/-- Every next state of the outcome comes by an effect of the instruction. -/
def HasEffect (i : Instr) (s : State) (o : Host.Outcome State Fault Refusal) : Prop :=
  ∀ t, o = .next t → Effect i s t

theorem Effect.hasEffect {i : Instr} {s t : State} (h : Effect i s t) : HasEffect i s (.next t) := by
  rintro _ ⟨⟩
  exact h

theorem hasEffect_answer_of_frames_eq_nil (i : Instr) (s : State) {r : Reply} (h : r.frames = []) :
    HasEffect i s (.next (s.answer r)) :=
  (Effect.reply r fun _ => by simp [h]).hasEffect

theorem hasEffect_rowResult (row : FrameRow) (s : State) :
    HasEffect row.toInstr s (.next (s.answer (rowResult row).reply)) :=
  (Effect.reply _ fun hwf => DecodeResult.wf_of_mem_frames_reply fun _ _ => rowResult_frame_wf hwf).hasEffect

theorem hasEffect_emitFrame {i : Instr} {d : Dest} (hd : destOf i = some d) (prof : Profile) (t : Byte) (P : Span)
    (s : State) : HasEffect i s (emitFrame prof t P d s) := by
  have hlen := length_buildFrame prof t P
  obtain ⟨-, h⟩ | ⟨hcap, h⟩ := emitFrame_cases prof t P d s
  · exact h ▸ (Effect.fail d _ hd).hasEffect
  · rw [h, ← hlen]
    exact (Effect.emit d _ hd (hlen.trans_le hcap)).hasEffect

theorem hasEffect_execEncRc (prof : Profile) (input : RcInput) (d : Dest) (s : State) :
    HasEffect (.encRc prof input d) s (execEncRc prof input d s) := by
  unfold execEncRc
  split
  · exact (Effect.fail d _ rfl).hasEffect
  · exact hasEffect_emitFrame rfl prof _ _ s

theorem hasEffect_execEncExt (prof : Profile) (input : ExtInput) (d : Dest) (s : State) :
    HasEffect (.encExt prof input d) s (execEncExt prof input d s) := by
  unfold execEncExt
  split
  · exact (Effect.fail d _ rfl).hasEffect
  · exact hasEffect_emitFrame rfl prof _ _ s

theorem hasEffect_execDecode (prof : Profile) (S : Span) (s : State) :
    HasEffect (.decode prof S) s (execDecode prof S s) := by
  obtain ⟨r, hr⟩ := exists_decodeSpan_eq_ok prof S
  simp only [execDecode, hr]
  refine (Effect.reply _ fun _ => DecodeResult.wf_of_mem_frames_reply ?_).hasEffect
  rintro F c rfl
  exact decodeSpan_frame_wf hr

/-- A command that names an instance has its effects from that instance alone. -/
theorem hasEffect_onInst {i : Instr} {s : State} {k : Nat} {f : Instance → Host.Outcome State Fault Refusal}
    (hf : ∀ inst, s.insts[k]? = some inst → HasEffect i s (f inst)) : HasEffect i s (s.onInst k f) := by
  obtain ⟨-, h⟩ | ⟨inst, hk, h⟩ := onInst_cases s k f
  · simp [HasEffect, h]
  · exact h ▸ hf inst hk

theorem hasEffect_execFeed (k : Nat) (S : Span) (s : State) : HasEffect (.feed k S) s (execFeed k S s) := by
  refine hasEffect_onInst fun inst hk => ?_
  cases hf : feedInst s.params.cap inst S with
  | ok p =>
    obtain ⟨inst', r⟩ := p
    exact (Effect.feed k S inst inst' r rfl hk hf).hasEffect
  | error x => simp [HasEffect]

theorem effect_of_exec_eq_next {i : Instr} {s t : State} (h : exec i s = .next t) : Effect i s t := by
  suffices heff : HasEffect i s (exec i s) from heff t h
  clear h
  cases i with
  | crc16 S => exact hasEffect_answer_of_frames_eq_nil _ s rfl
  | encRc prof input d => exact hasEffect_execEncRc prof input d s
  | encTlm prof input d => exact hasEffect_emitFrame rfl prof _ _ s
  | encHb prof st d => exact hasEffect_emitFrame rfl prof _ _ s
  | encExt prof input d => exact hasEffect_execEncExt prof input d s
  | decode prof S => exact hasEffect_execDecode prof S s
  | feed k S => exact hasEffect_execFeed k S s
  | reset k prof => exact hasEffect_onInst fun _ _ => (Effect.reset k prof rfl).hasEffect
  | rdstat k => exact hasEffect_onInst fun _ _ => hasEffect_answer_of_frames_eq_nil _ s rfl
  | illegal op => exact hasEffect_answer_of_frames_eq_nil _ s rfl
  | invalidLen0 => exact hasEffect_rowResult .invalidLen0 s
  | frameRc f => exact hasEffect_rowResult (.rc f) s
  | frameTlm f => exact hasEffect_rowResult (.tlm f) s
  | frameHb f => exact hasEffect_rowResult (.hb f) s
  | frameExt f => exact hasEffect_rowResult (.ext f) s
  | frameRaw t f => exact hasEffect_rowResult (.raw t f) s
  | badSync b0 b1 => exact hasEffect_rowResult (.badSync b0 b1) s

end Sys2Proof.Machine

/-! PROOFS. The invariant of the machine (10_state R28, R35) at power-on and over every step. -/

namespace Sys2Proof.Machine

/-! ### One instance -/

/-- An instance that holds nothing meets 10_state R35, live or dead. -/
theorem Instance.inv_empty (cap : Nat) (prof : Profile) (dead : Bool) :
    Instance.Inv cap { profile := prof, buf := [], len := 0, dead := dead } where
  len_le_cap := Nat.zero_le cap
  held := ⟨[], ⟨rfl, rfl⟩, fun _ => rfl, fun _ => decodeSpan_short prof Nat.two_pos⟩

theorem feedLive_keeps_inv {cap : Nat} {inst inst' : Instance} {S : Span} {r : Reply} (hinv : inst.Inv cap)
    (hlive : inst.dead = false) (hcap : inst.len + S.length ≤ cap) (h : feedLive inst S = .ok (inst', r)) :
    inst'.Inv cap ∧ ∀ F ∈ r.frames, F.wf := by
  obtain ⟨H, hH, -, -⟩ := hinv.held
  obtain ⟨cur, fs, hloop, hfeed⟩ := feedLive_of_holds hH S
  have hlen : (H ++ S).length ≤ cap := by rwa [List.length_append, ← hH.2]
  have hstop := decodeLoop_stops_incomplete (by omega) hloop
  cases hfeed.symm.trans h
  exact ⟨{ len_le_cap := (Nat.sub_le _ _).trans hlen
           held := ⟨(H ++ S).drop cur, ⟨rfl, List.length_drop.symm⟩, by simp [hlive], fun _ => hstop⟩ },
    decodeLoop_frames_wf (by simp) hloop⟩

/-- FEED keeps 10_state R35 and emits well-formed frames, on a dead, an overflowing and a live instance. -/
theorem feedInst_keeps_inv {cap : Nat} {inst inst' : Instance} {S : Span} {r : Reply} (hinv : inst.Inv cap)
    (h : feedInst cap inst S = .ok (inst', r)) : inst'.Inv cap ∧ ∀ F ∈ r.frames, F.wf := by
  obtain ⟨-, hf⟩ | ⟨-, -, hf⟩ | ⟨hlive, hcap, hf⟩ := feedInst_cases cap inst S
  · cases hf.symm.trans h
    exact ⟨hinv, by simp [overflowReply, Reply.frames]⟩
  · cases hf.symm.trans h
    exact ⟨Instance.inv_empty cap inst.profile true, by simp [overflowReply, Reply.frames]⟩
  · exact feedLive_keeps_inv hinv hlive hcap (hf.symm.trans h)

/-! ### The updates of the state -/

namespace State.Inv
variable {s : State} (h : s.Inv)
include h

theorem withPending (rest : List Issue) : ({ s with pending := rest } : State).Inv :=
  ⟨h.params_legal, h.insts_length, h.insts_inv, h.out_wf, h.reply_wf⟩

theorem answer {r : Reply} (hr : ∀ F ∈ r.frames, F.wf) : (s.answer r).Inv where
  params_legal := h.params_legal
  insts_length := h.insts_length
  insts_inv := h.insts_inv
  out_wf := h.out_wf
  reply_wf := by rintro _ ⟨⟩; exact hr

theorem setInst (k : Nat) {inst : Instance} (hinst : inst.Inv s.params.cap) : (s.setInst k inst).Inv where
  params_legal := h.params_legal
  insts_length := by simpa using h.insts_length
  insts_inv x hx := by
    obtain hx | rfl := List.mem_or_eq_of_mem_set hx
    · exact h.insts_inv x hx
    · exact hinst
  out_wf := h.out_wf
  reply_wf := h.reply_wf

theorem writeOut (a : Nat) (S : Span) : ({ s with out := Memory.writeSpan s.out a S } : State).Inv :=
  ⟨h.params_legal, h.insts_length, h.insts_inv, Memory.wf_writeSpan a S h.out_wf, h.reply_wf⟩

theorem failEncode (d : Dest) (st : Status) : (s.failEncode d st).Inv where
  params_legal := h.params_legal
  insts_length := h.insts_length
  insts_inv := h.insts_inv
  out_wf := Memory.wf_writeSpan d.base _ h.out_wf
  reply_wf := by rintro _ ⟨⟩; simp [Reply.frames]

end State.Inv

theorem Effect.keeps_inv {i : Instr} {s t : State} (heff : Effect i s t) (hi : i.wf = true) (h : s.Inv) : t.Inv := by
  cases heff with
  | reply r hr => exact h.answer (hr hi)
  | emit d F hd hF => exact (h.writeOut d.base F).answer (by simp [Reply.frames])
  | fail d st hd => exact h.failEncode d st
  | feed k S inst inst' r hk hinst hfeed =>
    obtain ⟨hinst', hr⟩ := feedInst_keeps_inv (h.insts_inv inst (List.mem_of_getElem? hinst)) hfeed
    exact (h.setInst k hinst').answer hr
  | reset k prof hk =>
    exact (h.setInst k (Instance.inv_empty s.params.cap prof false)).answer (by simp [Reply.frames])

/-- Settles O9: idling and a short span change no part the invariant speaks of, and an instruction that runs was
decoded, so it is well formed and each of its effects keeps the invariant. -/
theorem everyStepKeepsTheInvariant : Obligations.EveryStepKeepsTheInvariant := by
  intro s s' h hstep
  obtain ⟨-, rfl⟩ | ⟨iss, rest, -, ⟨-, rfl⟩ | ⟨i, hd, -, hexec⟩⟩ := step_next_cases hstep
  · exact h
  · exact (h.withPending rest).answer (by simp [DecodeResult.reply, Reply.frames])
  · exact (effect_of_exec_eq_next hexec).keeps_inv (decode_wf hd) (h.withPending rest)

theorem powerOn_inv {p : Params} (hp : p.legal = true) : (State.powerOn p).Inv where
  params_legal := hp
  insts_length := by simp
  insts_inv inst hinst := by
    rw [List.eq_of_mem_replicate hinst]
    exact Instance.inv_empty p.cap p.profilePor false
  out_wf := rfl
  reply_wf := by simp

/-- Settles O8: every instance is fresh, and the reference parameters are legal. -/
theorem powerOnMeetsTheInvariant : Obligations.PowerOnMeetsTheInvariant :=
  ⟨fun _ hp => powerOn_inv hp, powerOn_inv (by decide)⟩

end Sys2Proof.Machine

/-! PROOFS. Instances are independent (10_state R37), and what a command does to the one it names
(10_state R23, R24). -/

namespace Sys2Proof.Machine

/-! ### Not read -/

section commute
variable {s : State} {j : Nat} {x : Instance}

/-- An encode reads no instance. -/
theorem emitFrame_setInst (prof : Profile) (t : Byte) (P : Span) (d : Dest) :
    emitFrame prof t P d (s.setInst j x) = mapNext (·.setInst j x) (emitFrame prof t P d s) := by
  obtain ⟨hcap, h⟩ | ⟨hcap, h⟩ := emitFrame_cases prof t P d s <;>
    obtain ⟨hcap', h'⟩ | ⟨hcap', h'⟩ := emitFrame_cases prof t P d (s.setInst j x)
  · rw [h, h']; rfl
  · omega
  · omega
  · rw [h, h']; rfl

theorem execEncRc_setInst (prof : Profile) (input : RcInput) (d : Dest) :
    execEncRc prof input d (s.setInst j x) = mapNext (·.setInst j x) (execEncRc prof input d s) := by
  unfold execEncRc
  split
  · rfl
  · exact emitFrame_setInst prof _ _ d

theorem execEncExt_setInst (prof : Profile) (input : ExtInput) (d : Dest) :
    execEncExt prof input d (s.setInst j x) = mapNext (·.setInst j x) (execEncExt prof input d s) := by
  unfold execEncExt
  split
  · rfl
  · exact emitFrame_setInst prof _ _ d

theorem execDecode_setInst (prof : Profile) (S : Span) :
    execDecode prof S (s.setInst j x) = mapNext (·.setInst j x) (execDecode prof S s) := by
  obtain ⟨r, hr⟩ := exists_decodeSpan_eq_ok prof S
  simp only [execDecode, hr]
  rfl

theorem onInst_none {k : Nat} (h : s.insts[k]? = none) (f : Instance → Host.Outcome State Fault Refusal) :
    s.onInst k f = .refused (.noSuchInstance k) := by
  unfold State.onInst; rw [h]

/-- A command of instance k commutes with replacing another instance when its meaning on instance k does. -/
theorem onInst_setInst_of_ne {k : Nat} (hne : k ≠ j) {f f' : Instance → Host.Outcome State Fault Refusal}
    (hf : ∀ inst, f' inst = mapNext (·.setInst j x) (f inst)) :
    (s.setInst j x).onInst k f' = mapNext (·.setInst j x) (s.onInst k f) := by
  have hget : (s.setInst j x).insts[k]? = s.insts[k]? := List.getElem?_set_ne hne.symm
  obtain ⟨hk, h⟩ | ⟨inst, hk, h⟩ := onInst_cases s k f
  · rw [h, onInst_none (hget.trans hk), mapNext]
  · rw [h, onInst_some (hget.trans hk), hf]

/-- Replacing two different instances, in either order, and the reply. -/
theorem answer_setInst_setInst_comm {k : Nat} (hne : k ≠ j) (inst : Instance) (r : Reply) :
    ((s.setInst j x).setInst k inst).answer r = ((s.setInst k inst).answer r).setInst j x := by
  simp [State.answer, State.setInst, List.set_comm x inst hne.symm]

theorem execFeed_setInst_of_ne {k : Nat} (hne : k ≠ j) (S : Span) :
    execFeed k S (s.setInst j x) = mapNext (·.setInst j x) (execFeed k S s) := by
  refine onInst_setInst_of_ne hne fun inst => ?_
  rw [State.setInst_params]
  cases feedInst s.params.cap inst S with
  | ok p => exact congrArg Host.Outcome.next (answer_setInst_setInst_comm hne p.1 p.2)
  | error e => rfl

theorem execReset_setInst_of_ne {k : Nat} (hne : k ≠ j) (prof : Profile) :
    execReset k prof (s.setInst j x) = mapNext (·.setInst j x) (execReset k prof s) :=
  onInst_setInst_of_ne hne fun _ => congrArg Host.Outcome.next (answer_setInst_setInst_comm hne _ _)

theorem exec_setInst_of_namedInst_ne {i : Instr} (hne : i.namedInst ≠ some j) :
    exec i (s.setInst j x) = mapNext (·.setInst j x) (exec i s) := by
  cases i with
  | crc16 S => rfl
  | encRc prof input d => exact execEncRc_setInst prof input d
  | encTlm prof input d => exact emitFrame_setInst prof _ _ d
  | encHb prof st d => exact emitFrame_setInst prof _ _ d
  | encExt prof input d => exact execEncExt_setInst prof input d
  | decode prof S => exact execDecode_setInst prof S
  | feed k S => exact execFeed_setInst_of_ne (fun h => hne (congrArg some h)) S
  | reset k prof => exact execReset_setInst_of_ne (fun h => hne (congrArg some h)) prof
  | rdstat k => exact onInst_setInst_of_ne (fun h => hne (congrArg some h)) fun _ => rfl
  | illegal op => rfl
  | invalidLen0 => rfl
  | frameRc f => rfl
  | frameTlm f => rfl
  | frameHb f => rfl
  | frameExt f => rfl
  | frameRaw t f => rfl
  | badSync b0 b1 => rfl

end commute

/-! ### Not written -/

theorem Effect.getElem?_insts_of_namedInst_ne {i : Instr} {s t : State} (heff : Effect i s t) {j : Nat}
    (hne : i.namedInst ≠ some j) : t.insts[j]? = s.insts[j]? := by
  cases heff with
  | reply r hr => rfl
  | emit d F hd hF => rfl
  | fail d st hd => rfl
  | feed k S inst inst' r hi hinst hfeed =>
    subst hi
    exact List.getElem?_set_ne fun h => hne (congrArg some h)
  | reset k prof hi =>
    subst hi
    exact List.getElem?_set_ne fun h => hne (congrArg some h)

/-- Settles O17, by the meanings for what is not read and by the effects for what is not written. -/
theorem instancesAreIndependent : Obligations.InstancesAreIndependent :=
  fun _ _ _ _ hne => ⟨exec_setInst_of_namedInst_ne hne, fun _ h =>
    (effect_of_exec_eq_next h).getElem?_insts_of_namedInst_ne hne⟩

/-! ### PROFILE and DEAD -/

/-- Instance k is left as it was, or a FEED or a RESET that names it gave it its new state. -/
theorem Effect.inst_cases {i : Instr} {s t : State} (heff : Effect i s t) {k : Nat} {a b : Instance}
    (ha : s.insts[k]? = some a) (hb : t.insts[k]? = some b) :
    a = b ∨ (∃ S r, i = .feed k S ∧ feedInst s.params.cap a S = .ok (b, r)) ∨
      ∃ prof, i = .reset k prof ∧ b = Instance.fresh prof := by
  by_cases hk : i.namedInst = some k
  · have hlt : k < s.insts.length := (List.getElem?_eq_some_iff.1 ha).1
    cases heff with
    | reply r hr => exact .inl (Option.some.inj (ha.symm.trans hb))
    | emit d F hd hF => exact .inl (Option.some.inj (ha.symm.trans hb))
    | fail d st hd => exact .inl (Option.some.inj (ha.symm.trans hb))
    | feed k' S inst inst' r hi hinst hfeed =>
      subst hi
      obtain rfl : k' = k := Option.some.inj hk
      obtain rfl : a = inst := Option.some.inj (ha.symm.trans hinst)
      obtain rfl : inst' = b := Option.some.inj ((List.getElem?_set_self hlt).symm.trans hb)
      exact .inr (.inl ⟨S, r, rfl, hfeed⟩)
    | reset k' prof hi =>
      subst hi
      obtain rfl : k' = k := Option.some.inj hk
      obtain rfl : Instance.fresh prof = b := Option.some.inj ((List.getElem?_set_self hlt).symm.trans hb)
      exact .inr (.inr ⟨prof, rfl, rfl⟩)
  · exact .inl (Option.some.inj (ha.symm.trans ((heff.getElem?_insts_of_namedInst_ne hk).symm.trans hb)))

/-- FEED on a live instance whose chunk fits changes BUF and LEN alone. -/
theorem feedLive_profile_dead {inst inst' : Instance} {S : Span} {r : Reply}
    (h : feedLive inst S = .ok (inst', r)) : inst'.profile = inst.profile ∧ inst'.dead = inst.dead := by
  simp only [feedLive] at h
  split at h
  · cases h
  · split at h
    · cases h
    · cases h
      exact ⟨rfl, rfl⟩

/-- FEED keeps PROFILE, and changes DEAD by the overflow of a live instance alone. -/
theorem feedInst_profile_dead {cap : Nat} {inst inst' : Instance} {S : Span} {r : Reply}
    (h : feedInst cap inst S = .ok (inst', r)) :
    inst'.profile = inst.profile ∧
      (inst'.dead = inst.dead ∨ inst.dead = false ∧ inst'.dead = true ∧ cap < inst.len + S.length) := by
  obtain ⟨-, hf⟩ | ⟨hlive, hcap, hf⟩ | ⟨-, -, hf⟩ := feedInst_cases cap inst S
  · cases hf.symm.trans h
    exact ⟨rfl, .inl rfl⟩
  · cases hf.symm.trans h
    exact ⟨rfl, .inr ⟨hlive, rfl, hcap⟩⟩
  · obtain ⟨hprof, hdead⟩ := feedLive_profile_dead (hf.symm.trans h)
    exact ⟨hprof, .inl hdead⟩

/-- Settles O50, by what can happen to one instance. -/
theorem profileAndDeadChangeOnlyByTheirCommands : Obligations.ProfileAndDeadChangeOnlyByTheirCommands := by
  intro i k s t a b h ha hb
  obtain rfl | ⟨S, r, rfl, hfeed⟩ | ⟨prof, rfl, rfl⟩ := (effect_of_exec_eq_next h).inst_cases ha hb
  · simp +contextual
  · obtain ⟨hprof, hdead | ⟨hlive, hdead, hcap⟩⟩ := feedInst_profile_dead hfeed
    · simp +contextual [hprof, hdead]
    · exact ⟨fun hne => absurd hprof.symm hne, by simp [hlive], fun _ _ => ⟨S, rfl, hcap⟩⟩
  · simp

end Sys2Proof.Machine

/-! PROOFS. What a command may write (20_memory R49, R50). -/

namespace Sys2Proof.Machine

theorem sameOutside_of_out_eq_writeSpan {d : Dest} {s t : State} {F : Span} (hF : F.length ≤ d.cap)
    (ht : t.out = Memory.writeSpan s.out d.base F) : SameOutside d s t := by
  intro a ha
  rw [ht, Memory.read_writeSpan, if_neg (by omega)]

namespace Effect
variable {i : Instr} {s t : State} (heff : Effect i s t)
include heff

theorem params_eq : t.params = s.params := by
  cases heff <;> rfl

theorem pending_eq : t.pending = s.pending := by
  cases heff <;> rfl

theorem length_insts_eq : t.insts.length = s.insts.length := by
  cases heff with
  | reply r hr => rfl
  | emit d F hd hF => rfl
  | fail d st hd => rfl
  | feed k S inst inst' r hi hinst hfeed => exact List.length_set
  | reset k prof hi => exact List.length_set

theorem insts_eq_of_ne_feed_of_ne_reset (hfeed : ∀ k S, i ≠ .feed k S) (hreset : ∀ k prof, i ≠ .reset k prof) :
    t.insts = s.insts := by
  cases heff with
  | reply r hr => rfl
  | emit d F hd hF => rfl
  | fail d st hd => rfl
  | feed k S inst inst' r hi hinst hf => exact absurd hi (hfeed k S)
  | reset k prof hi => exact absurd hi (hreset k prof)

/-- FEED keeps the PROFILE of the instance it names, so only RESET changes the list of profiles (10_state R24). -/
theorem map_profile_insts_eq_of_ne_reset (hreset : ∀ k prof, i ≠ .reset k prof) :
    t.insts.map Instance.profile = s.insts.map Instance.profile := by
  cases heff with
  | reply r hr => rfl
  | emit d F hd hF => rfl
  | fail d st hd => rfl
  | feed k S inst inst' r hi hinst hf =>
    obtain ⟨hk, rfl⟩ := List.getElem?_eq_some_iff.1 hinst
    rw [State.answer_insts, State.setInst_insts, List.map_set, (feedInst_profile_dead hf).1, ← List.map_set,
      List.set_getElem_self]
  | reset k prof hi => exact absurd hi (hreset k prof)

/-- A frame fits its destination and a failed encode draws one byte for each of its places. -/
theorem sameOutside {d : Dest} (hd : destOf i = some d) : SameOutside d s t := by
  cases heff with
  | reply r hr => exact fun _ _ => rfl
  | emit d' F hd' hF =>
    obtain rfl : d = d' := Option.some.inj (hd.symm.trans hd')
    exact sameOutside_of_out_eq_writeSpan hF rfl
  | fail d' st hd' =>
    obtain rfl : d = d' := Option.some.inj (hd.symm.trans hd')
    exact sameOutside_of_out_eq_writeSpan (length_freeSpan s.draws d.cap).le rfl
  | feed k S inst inst' r hi hinst hf => exact fun _ _ => rfl
  | reset k prof hi => exact fun _ _ => rfl

theorem out_draws_eq_of_destOf_eq_none (hd : destOf i = none) : t.out = s.out ∧ t.draws = s.draws := by
  cases heff with
  | reply r hr => exact ⟨rfl, rfl⟩
  | emit d F hd' hF => simp [hd] at hd'
  | fail d st hd' => simp [hd] at hd'
  | feed k S inst inst' r hi hinst hf => exact ⟨rfl, rfl⟩
  | reset k prof hi => exact ⟨rfl, rfl⟩

end Effect

/-- Settles O18: each part is read off the effects an instruction can have. -/
theorem commandsWriteOnlyWhatTheirRulesName : Obligations.CommandsWriteOnlyWhatTheirRulesName := by
  intro i s t h
  have heff := effect_of_exec_eq_next h
  refine ⟨heff.params_eq, heff.pending_eq, heff.length_insts_eq,
    fun _ => heff.getElem?_insts_of_namedInst_ne, heff.insts_eq_of_ne_feed_of_ne_reset, ?_,
    fun _ => heff.sameOutside, heff.out_draws_eq_of_destOf_eq_none⟩
  rintro k S rfl
  exact heff.map_profile_insts_eq_of_ne_reset (by simp)

end Sys2Proof.Machine

/-! PROOFS. Requests take effect in issue order (20_memory R51, R56): no instruction reads or writes the stream. -/

namespace Sys2Proof.Machine

section issue
variable {s : State} {x : Issue}

theorem emitFrame_issue (prof : Profile) (t : Byte) (P : Span) (d : Dest) :
    emitFrame prof t P d (s.issue x) = mapNext (·.issue x) (emitFrame prof t P d s) := by
  simp only [emitFrame, State.issue_out]
  split
  · rfl
  · cases memWrite s.out d 0 (buildFrame prof t P) with
    | none => rfl
    | some out => rfl

theorem execEncRc_issue (prof : Profile) (input : RcInput) (d : Dest) :
    execEncRc prof input d (s.issue x) = mapNext (·.issue x) (execEncRc prof input d s) := by
  unfold execEncRc
  split
  · rfl
  · exact emitFrame_issue prof _ _ d

theorem execEncExt_issue (prof : Profile) (input : ExtInput) (d : Dest) :
    execEncExt prof input d (s.issue x) = mapNext (·.issue x) (execEncExt prof input d s) := by
  unfold execEncExt
  split
  · rfl
  · exact emitFrame_issue prof _ _ d

theorem execDecode_issue (prof : Profile) (S : Span) :
    execDecode prof S (s.issue x) = mapNext (·.issue x) (execDecode prof S s) := by
  obtain ⟨r, hr⟩ := exists_decodeSpan_eq_ok prof S
  simp only [execDecode, hr]
  rfl

/-- A command of instance k commutes with issuing a request when its meaning on instance k does. -/
theorem onInst_issue {k : Nat} {f f' : Instance → Host.Outcome State Fault Refusal}
    (hf : ∀ inst, f' inst = mapNext (·.issue x) (f inst)) :
    (s.issue x).onInst k f' = mapNext (·.issue x) (s.onInst k f) := by
  obtain ⟨hk, h⟩ | ⟨inst, hk, h⟩ := onInst_cases s k f
  · rw [h, onInst_none (s := s.issue x) hk, mapNext]
  · rw [h, onInst_some (s := s.issue x) hk, hf]

theorem execFeed_issue (k : Nat) (S : Span) :
    execFeed k S (s.issue x) = mapNext (·.issue x) (execFeed k S s) := by
  refine onInst_issue fun inst => ?_
  rw [State.issue_params]
  cases feedInst s.params.cap inst S with
  | ok p => rfl
  | error e => rfl

theorem exec_issue (i : Instr) : exec i (s.issue x) = mapNext (·.issue x) (exec i s) := by
  cases i with
  | crc16 S => rfl
  | encRc prof input d => exact execEncRc_issue prof input d
  | encTlm prof input d => exact emitFrame_issue prof _ _ d
  | encHb prof st d => exact emitFrame_issue prof _ _ d
  | encExt prof input d => exact execEncExt_issue prof input d
  | decode prof S => exact execDecode_issue prof S
  | feed k S => exact execFeed_issue k S
  | reset k prof => exact onInst_issue fun _ => rfl
  | rdstat k => exact onInst_issue fun _ => rfl
  | illegal op => rfl
  | invalidLen0 => rfl
  | frameRc f => rfl
  | frameTlm f => rfl
  | frameHb f => rfl
  | frameExt f => rfl
  | frameRaw t f => rfl
  | badSync b0 b1 => rfl

end issue

section issued
variable {s t : State} {iss : Issue} {rest : List Issue} (hp : s.pending = iss :: rest) (h : step s = .next t)
include hp h

theorem step_next_cases_of_pending_cons :
    (decode iss.request = .error .incomplete ∧
      t = ({ s with pending := rest } : State).answer (DecodeResult.reply .incomplete)) ∨
    ∃ i, decode iss.request = .ok i ∧ issueRefusal iss.ctx i = none ∧ exec i { s with pending := rest } = .next t := by
  obtain ⟨hnil, -⟩ | ⟨iss', rest', hp', hcase⟩ := step_next_cases h
  · simp [hp] at hnil
  · obtain ⟨rfl, rfl⟩ : iss = iss' ∧ rest = rest' := by simpa [hp] using hp'
    exact hcase

theorem pending_of_step_eq_next : t.pending = rest := by
  obtain ⟨-, rfl⟩ | ⟨i, -, -, hexec⟩ := step_next_cases_of_pending_cons hp h
  · rfl
  · exact (effect_of_exec_eq_next hexec).pending_eq

/-- A step with a request at the head is the same whatever is issued behind it. -/
theorem step_issue_of_step_eq_next (x : Issue) : step (s.issue x) = .next (t.issue x) := by
  have hpx : (s.issue x).pending = iss :: (rest ++ [x]) := by simp [hp]
  obtain ⟨hd, rfl⟩ | ⟨i, hd, ha, hexec⟩ := step_next_cases_of_pending_cons hp h
  · exact step_of_decode_error hpx hd
  · calc step (s.issue x)
      _ = exec i (({ s with pending := rest } : State).issue x) := step_of_admitted hpx hd ha
      _ = mapNext (·.issue x) (exec i { s with pending := rest }) := exec_issue i
      _ = .next (t.issue x) := by rw [hexec, mapNext]

end issued

/-- Settles O20: what is issued behind the head of the stream is carried along unread. -/
theorem requestsTakeEffectInIssueOrder : Obligations.RequestsTakeEffectInIssueOrder :=
  fun s _ x _ _ hp h => ⟨pending_of_step_eq_next hp h, s.issue_pending x, step_issue_of_step_eq_next hp h x⟩

end Sys2Proof.Machine

/-! PROOFS. The FRAME rows: what a span that selects a row looks like, and that decoding undoes encoding
(30_encoding R60, R62, R80, R81). -/

namespace Sys2Proof

open Sys2Proof.Machine

/-! ### The row of a type byte -/

/-- RAW is the row of every type byte but four (30_encoding R66). -/
theorem unknownType_iff {t : Byte} :
    unknownType t = true ↔ t ≠ 0x01#8 ∧ t ≠ 0x02#8 ∧ t ≠ 0x03#8 ∧ t ≠ 0x04#8 := by
  simp [unknownType, and_assoc]

theorem rowOfType_of_unknownType {t : Byte} (ht : unknownType t = true) (f : FrameFields) :
    rowOfType t f = .raw t f := by
  obtain ⟨h1, h2, h3, h4⟩ := unknownType_iff.mp ht
  simp [rowOfType, h1, h2, h3, h4]

/-- Whatever the type byte is, the wire bytes of its row are those of a frame of that type. -/
theorem encode_rowOfType_toInstr (t : Byte) (f : FrameFields) :
    encode (rowOfType t f).toInstr = .span .A (frameBytes t f) := by
  unfold rowOfType
  split_ifs with h1 h2 h3 h4
  · rw [h1]; rfl
  · rw [h2]; rfl
  · rw [h3]; rfl
  · rw [h4]; rfl
  · rfl

/-- The mnemonic of the row of a type byte, as the opcode table lists the types (30_encoding R81). -/
theorem mnemonic_rowOfType_toInstr (t : Byte) (f : FrameFields) :
    (rowOfType t f).toInstr.mnemonic =
      if t = 0x01#8 then "FRAME_RC" else if t = 0x02#8 then "FRAME_TLM" else if t = 0x03#8 then "FRAME_HB"
      else if t = 0x04#8 then "FRAME_EXT" else "FRAME_RAW" := by
  unfold rowOfType
  split_ifs <;> rfl

/-! ### Spans that select a row -/

/-- A span decodes to an instruction exactly when the decoder gives a row for it. -/
theorem decode_span_eq_ok_iff {prof : Profile} {S : Span} {i : Instr} :
    decode (.span prof S) = .ok i ↔ ∃ row, decodeFrame prof S = .ok row ∧ i = row.toInstr := by
  cases h : decodeFrame prof S with
  | ok row => simp [decode, h, eq_comm]
  | error r => simp [decode, h]

/-- The wire bytes of a well-formed frame decode to the row of its type, whatever follows them. -/
theorem decode_frameBytes_append (prof : Profile) (t : Byte) {f : FrameFields} (hf : f.wf = true) (rest : Span) :
    decode (.span prof (frameBytes t f ++ rest)) = .ok (rowOfType t f).toInstr := by
  have hL : f.len.toNat = f.payload.length + 1 := by simpa [FrameFields.wf] using hf
  have hrow := decodeFrame_complete prof f.len t (f.rxCrc.extractLsb' 0 8) (f.rxCrc.extractLsb' 8 8) f.payload rest hL
  rw [le16_bytes] at hrow
  exact decode_span_eq_ok_iff.mpr ⟨rowOfType t f, by simpa [frameBytes, bytesLE16] using hrow, rfl⟩

theorem decode_frameBytes (prof : Profile) (t : Byte) {f : FrameFields} (hf : f.wf = true) :
    decode (.span prof (frameBytes t f)) = .ok (rowOfType t f).toInstr := by
  simpa using decode_frameBytes_append prof t hf []

/-- A span that decodes has no sync pattern, or length byte 0, or begins with the wire bytes of a well-formed
frame, of whose type the instruction is (30_encoding R81). -/
theorem decode_span_cases {prof : Profile} {S : Span} {i : Instr} (h : decode (.span prof S) = .ok i) :
    (∃ b0 b1 R, S = b0 :: b1 :: R ∧ (b0 ≠ 0xAA#8 ∨ b1 ≠ 0x55#8) ∧ i = .badSync b0 b1) ∨
    (∃ R, S = 0xAA#8 :: 0x55#8 :: 0x00#8 :: R ∧ i = .invalidLen0) ∨
    ∃ t f R, S = frameBytes t f ++ R ∧ f.wf = true ∧ i = (rowOfType t f).toInstr := by
  obtain ⟨row, hrow, rfl⟩ := decode_span_eq_ok_iff.mp h
  obtain hS | ⟨b0, b1, R, rfl, hb⟩ | rfl | ⟨R, rfl⟩ | ⟨L, R, rfl, hL, hR⟩ | ⟨L, t, P, lo, hi, R, rfl, hL⟩ :=
    span_cases S
  · simp [decodeFrame_short prof S hS] at hrow
  · rw [decodeFrame_badSync prof b0 b1 R hb] at hrow
    cases hrow
    exact .inl ⟨b0, b1, R, rfl, hb, rfl⟩
  · simp [decodeFrame_header] at hrow
  · rw [decodeFrame_len0] at hrow
    cases hrow
    exact .inr (.inl ⟨R, rfl, rfl⟩)
  · simp [decodeFrame_partial prof L R hL hR] at hrow
  · rw [decodeFrame_complete prof L t lo hi P R hL] at hrow
    cases hrow
    exact .inr (.inr ⟨t, ⟨L, P, le16 lo hi⟩, R, by simp [frameBytes, bytesLE16_le16],
      by simp [FrameFields.wf, hL], rfl⟩)

/-- Settles O5: in each case of `decode_span_cases` the span begins with the instruction's wire bytes. -/
theorem decodedFrameEncodesToTheBytesItCameFrom : Obligations.DecodedFrameEncodesToTheBytesItCameFrom := by
  refine fun prof S i h => ⟨decode_wf h, ?_⟩
  obtain ⟨b0, b1, R, rfl, -, rfl⟩ | ⟨R, rfl, rfl⟩ | ⟨t, f, R, rfl, -, rfl⟩ := decode_span_cases h
  · exact ⟨[b0, b1], R, rfl, rfl⟩
  · exact ⟨[0xAA#8, 0x55#8, 0x00#8], R, rfl, rfl⟩
  · exact ⟨frameBytes t f, R, encode_rowOfType_toInstr t f, rfl⟩

/-- Settles O3: the two frames are the wire bytes of their fields, and the other two spans stop at the sync pattern
and at the length byte. -/
theorem writtenOutFramesDecode : Obligations.WrittenOutFramesDecode :=
  ⟨decode_frameBytes .A 0x03#8 (f := ⟨0x02#8, [0x01#8], 0x3011#16⟩) rfl,
    decode_frameBytes .B 0x07#8 (f := ⟨0x04#8, [0x01#8, 0x02#8, 0x03#8], 0x15C4#16⟩) rfl,
    decode_span_eq_ok_iff.mpr ⟨_, decodeFrame_badSync .A 0x00#8 0x55#8 [] (by decide), rfl⟩,
    decode_span_eq_ok_iff.mpr ⟨_, decodeFrame_len0 .A [0x01#8, 0x02#8], rfl⟩⟩

/-! ### Commands -/

/-- Settles O2, by the opcode map. -/
theorem definedOpcodesSelectTheirCommand : Obligations.DefinedOpcodesSelectTheirCommand :=
  fun _ => ⟨rfl, rfl, rfl, rfl, rfl, rfl, rfl, rfl, rfl⟩

/-- An opcode outside the map reads no operand (30_encoding R76). -/
theorem decodeCommand_of_undefined {op : Byte} (hop : definedOpcodes.contains op = false) (a : Operands) :
    decodeCommand op a = .illegal op := by
  simp only [definedOpcodes, List.contains_cons, List.contains_nil, Bool.or_eq_false_iff, beq_eq_false_iff_ne] at hop
  simp [decodeCommand, hop]

/-- Settles O1: no range of 30_encoding R76 holds one of the nine opcodes. -/
theorem undefinedOpcodesAreIllegalWithNoEffect : Obligations.UndefinedOpcodesAreIllegalWithNoEffect := by
  intro op a s hop
  have hundef : definedOpcodes.contains op = false := by
    rw [Bool.eq_false_iff, ne_eq, List.contains_iff_mem]
    intro hmem
    simp only [definedOpcodes, List.mem_cons, List.not_mem_nil, or_false] at hmem
    bv_omega
  exact ⟨congrArg Except.ok (decodeCommand_of_undefined hundef a), rfl⟩

/-! ### The round trip and the opcode table -/

/-- Settles O4: a command's opcode selects its constructor, which reads the operands it was given; a FRAME row is
read back from its wire bytes. -/
theorem decodeOfEncodeGivesTheInstructionBack : Obligations.DecodeOfEncodeGivesTheInstructionBack := by
  intro i hi
  cases i with
  | crc16 S => rfl
  | encRc prof input out => rfl
  | encTlm prof input out => rfl
  | encHb prof st out => rfl
  | encExt prof input out => rfl
  | decode prof S => rfl
  | feed k S => rfl
  | reset k prof => rfl
  | rdstat k => rfl
  | illegal op =>
    have hundef : definedOpcodes.contains op = false := by simpa [Instr.wf] using hi
    exact congrArg Except.ok (decodeCommand_of_undefined hundef _)
  | invalidLen0 => exact decode_span_eq_ok_iff.mpr ⟨_, decodeFrame_len0 .A [], rfl⟩
  | frameRc f => exact decode_frameBytes .A 0x01#8 hi
  | frameTlm f => exact decode_frameBytes .A 0x02#8 hi
  | frameHb f => exact decode_frameBytes .A 0x03#8 hi
  | frameExt f => exact decode_frameBytes .A 0x04#8 hi
  | frameRaw t f =>
    obtain ⟨ht, hf⟩ : unknownType t = true ∧ f.wf = true := by simpa [Instr.wf] using hi
    rw [encode, decode_frameBytes .A t hf, rowOfType_of_unknownType ht, FrameRow.toInstr]
  | badSync b0 b1 =>
    have hb : b0 ≠ 0xAA#8 ∨ b1 ≠ 0x55#8 := by simpa [Instr.wf, imp_iff_not_or] using hi
    exact decode_span_eq_ok_iff.mpr ⟨_, decodeFrame_badSync .A b0 b1 [] hb, rfl⟩

/-- The first CMD row that applies to an opcode is that of the command the decoder gives (30_encoding R80). -/
theorem firstMatch_cmdTable (op : Byte) (a : Operands) :
    firstMatch cmdTable op = some (decodeCommand op a).mnemonic := by
  unfold decodeCommand
  split_ifs
  case neg => exact Laws.TableRow.firstMatch_illegal op (by simp [definedOpcodes, *])
  all_goals subst op; rfl

/-- The first FRAME row that applies to the first four bytes of a span is that of the row the span decodes to
(30_encoding R80). -/
theorem firstMatch_frameTable_of_decode {prof : Profile} {b0 b1 b2 b3 : Byte} {rest : Span} {i : Instr}
    (h : decode (.span prof (b0 :: b1 :: b2 :: b3 :: rest)) = .ok i) :
    firstMatch frameTable (frameWord b0 b1 b2 b3) = some i.mnemonic := by
  rw [Laws.TableRow.firstMatch_frame]
  obtain ⟨c0, c1, R, hS, hb, rfl⟩ | ⟨R, hS, rfl⟩ | ⟨t, f, R, hS, hf, rfl⟩ := decode_span_cases h
  · obtain ⟨rfl, rfl, -⟩ : b0 = c0 ∧ b1 = c1 ∧ b2 :: b3 :: rest = R := by simpa using hS
    rw [if_neg (by tauto)]
    rfl
  · obtain ⟨rfl, rfl, rfl, -⟩ : b0 = 0xAA#8 ∧ b1 = 0x55#8 ∧ b2 = 0#8 ∧ b3 :: rest = R := by simpa using hS
    rfl
  · obtain ⟨rfl, rfl, rfl, rfl, -⟩ :
        b0 = 0xAA#8 ∧ b1 = 0x55#8 ∧ b2 = f.len ∧ b3 = t ∧ rest = f.payload ++ (bytesLE16 f.rxCrc ++ R) := by
      simpa [frameBytes] using hS
    rw [if_pos ⟨rfl, rfl⟩, if_neg (Laws.TableRow.len_ne_zero hf), mnemonic_rowOfType_toInstr]

/-- Settles O6, table by table. -/
theorem opcodeTableFirstMatchAgreesWithTheDecoder : Obligations.OpcodeTableFirstMatchAgreesWithTheDecoder :=
  ⟨firstMatch_cmdTable, fun _ _ _ _ _ _ _ h => firstMatch_frameTable_of_decode h⟩

end Sys2Proof

/-! PROOFS. The FRAME rows run: DECODE of a span and the row the span selects answer the same (30_encoding R81,
42_decoder R130); commands of instances that do not exist (30_encoding R77). -/

namespace Sys2Proof.Machine

/-- A FRAME row answers the result of its dispatch case and changes nothing else. -/
theorem exec_toInstr (row : FrameRow) (s : State) : exec row.toInstr s = onlyReply s (rowResult row).reply := by
  cases row <;> rfl

/-- Settles O36: each result is its row's entry in the dispatch. -/
theorem frameRowsAnswerTheirDispatchCase : Obligations.FrameRowsAnswerTheirDispatchCase :=
  fun f t b0 b1 s => ⟨exec_toInstr .invalidLen0 s, fun _ => exec_toInstr (.badSync b0 b1) s,
    fun _ => exec_toInstr (.rc f) s, fun _ => exec_toInstr (.tlm f) s, fun _ => exec_toInstr (.hb f) s,
    fun _ => exec_toInstr (.ext f) s, fun _ => exec_toInstr (.raw t f) s⟩

/-- DECODE answers its result and changes nothing else (42_decoder R139). -/
theorem exec_decode_of_decodeSpan {prof : Profile} {S : Span} {r : DecodeResult} (h : decodeSpan prof S = .ok r)
    (s : State) : exec (.decode prof S) s = onlyReply s r.reply := by
  simp only [exec, execDecode, h]
  rfl

/-- Settles O37: DECODE's result is that of the decoder's row, and a span without a row is too short. -/
theorem decodeRunsTheRowItsSpanSelects : Obligations.DecodeRunsTheRowItsSpanSelects := by
  refine fun prof S s => ⟨fun i h => ?_, fun r h => ?_⟩
  · obtain ⟨row, hrow, rfl⟩ := decode_span_eq_ok_iff.mp h
    rw [exec_toInstr, exec_decode_of_decodeSpan (by rw [decodeSpan, hrow])]
  · have hspan : decodeSpan prof S = .ok .incomplete := by
      cases hrow : decodeFrame prof S with
      | ok row => simp [decode, hrow] at h
      | error r' =>
        cases r' with
        | incomplete => simp [decodeSpan, hrow]
        | readOutsideSpan => exact absurd hrow (decodeFrame_ne_readOutsideSpan prof S)
    exact exec_decode_of_decodeSpan hspan s

/-- Settles O14: there is no instance at or beyond NUM_INST to run on. -/
theorem instanceNumbersOutOfRangeAreRefused : Obligations.InstanceNumbersOutOfRangeAreRefused := by
  intro s k S prof hlen hk
  have hnone : s.insts[k]? = none := List.getElem?_eq_none (hlen.trans_le hk)
  exact ⟨onInst_none hnone _, onInst_none hnone _, onInst_none hnone _⟩

end Sys2Proof.Machine

/-! PROOFS. The assembler (30_encoding R79). -/

namespace Sys2Proof.Machine

/-! ### Pseudo-commands -/

theorem Pseudo.expand_enc_of_unknownType {t : Byte} (ht : unknownType t = true) (s : State) (prof : Profile)
    (x : EncInput) (d : Dest) : (Pseudo.enc prof t x d).expand s = none := by
  obtain ⟨h1, h2, h3, h4⟩ := unknownType_iff.mp ht
  cases x with
  | rc r => exact if_neg h1
  | tlm r => exact if_neg h2
  | hb st => exact if_neg h3
  | ext r => exact if_neg h4

theorem Pseudo.expand_drop {s : State} {k : Nat} {inst : Instance} (hk : s.insts[k]? = some inst) :
    (Pseudo.drop k).expand s = some (.reset k inst.profile) := by
  simp [Pseudo.expand, hk]

/-- Settles O54: DROP is the RESET that keeps the profile, and a type outside 0x01 to 0x04 has no payload record. -/
theorem pseudoCommandsExpandAsWritten : Obligations.PseudoCommandsExpandAsWritten := by
  refine ⟨fun k s inst hk => ⟨_, Pseudo.expand_drop hk, onInst_some hk _⟩,
    fun _ _ _ _ _ _ _ => ⟨rfl, rfl, rfl, rfl⟩, fun s prof t x d ht => ?_⟩
  have hunknown : unknownType t = true := by
    rw [unknownType_iff]
    refine ⟨?_, ?_, ?_, ?_⟩ <;> bv_omega
  exact Pseudo.expand_enc_of_unknownType hunknown s prof x d

/-! ### Lines -/

theorem Pseudo.wf_of_expand_eq_some {s : State} {p : Pseudo} {i : Instr} (h : p.expand s = some i) :
    i.wf = true := by
  cases p with
  | enc prof t x d =>
    cases x <;>
    · simp only [Pseudo.expand, Option.ite_none_right_eq_some, Option.some.injEq] at h
      obtain ⟨-, rfl⟩ := h
      rfl
  | drop k =>
    obtain ⟨inst, -, rfl⟩ := Option.map_eq_some_iff.mp h
    rfl

theorem AsmLine.wf_of_instr_eq_some {s : State} {l : AsmLine} {i : Instr} (h : l.instr s = some i) :
    i.wf = true := by
  cases l with
  | crc16 S => cases h; rfl
  | encRc prof n cs d =>
    obtain ⟨v, -, rfl⟩ := Option.map_eq_some_iff.mp h
    rfl
  | encTlm prof input d => cases h; rfl
  | encHb prof st d => cases h; rfl
  | encExt prof id p qs d =>
    obtain ⟨v, -, rfl⟩ := Option.map_eq_some_iff.mp h
    rfl
  | decode prof S => cases h; rfl
  | feed k S => cases h; rfl
  | reset k prof => cases h; rfl
  | rdstat k => cases h; rfl
  | pseudo p => exact Pseudo.wf_of_expand_eq_some h

/-- A list that fits is its entries, then zeros. -/
theorem exists_padded_eq_some {w n : Nat} {xs : List (BitVec w)} (hxs : xs.length ≤ n) :
    ∃ v, padded n xs = some v ∧ ∀ j : Fin n, v[j] = if h : j.val < xs.length then xs[j.val] else 0#w := by
  refine ⟨_, if_pos hxs, fun j => ?_⟩
  simp only [Fin.getElem_fin, Vector.getElem_ofFn]
  split_ifs with hj
  · exact List.getD_eq_getElem xs _ hj
  · exact List.getD_eq_default xs _ (not_lt.mp hj)

/-- Settles O55: a line's instruction is well formed, so decoding gives it back from its request. -/
theorem assembledLinesDecodeToTheirCommand : Obligations.AssembledLinesDecodeToTheirCommand := by
  refine ⟨fun s l i hi => ?_, fun s prof n cs d hcs => ?_, fun s prof id p qs d hqs => ?_⟩
  · exact ⟨encode i, by rw [AsmLine.assemble, hi, Option.map_some],
      decodeOfEncodeGivesTheInstructionBack i (AsmLine.wf_of_instr_eq_some hi)⟩
  · obtain ⟨v, hv, hget⟩ := exists_padded_eq_some hcs
    exact ⟨v, by rw [AsmLine.instr, hv, Option.map_some], hget⟩
  · obtain ⟨v, hv, hget⟩ := exists_padded_eq_some hqs
    exact ⟨v, by rw [AsmLine.instr, hv, Option.map_some], hget⟩

end Sys2Proof.Machine

/-! PROOFS. The CRC generator (40_crc): the bit loop on numbers, the table form, and the two injections that
make a changed byte visible. -/

namespace Sys2Proof.Machine

/-! ### The bit loop on numbers (R90, R91) -/

/-- One iteration of R91's loop on numbers. -/
def crcBitNat (x : Nat) : Nat := if x % 2 = 1 then (x / 2) ^^^ 0xA001 else x / 2

theorem crcBit_toNat (c : Half) : (crcBit c).toNat = crcBitNat c.toNat := by
  have hshift : (c >>> 1).toNat = c.toNat / 2 := by simp [Nat.shiftRight_eq_div_pow]
  unfold crcBit crcBitNat
  by_cases h : c.toNat % 2 = 1
  · simp only [BitVec.getLsbD, Nat.testBit_zero, h, decide_true, if_true, BitVec.toNat_xor, hshift]
    rfl
  · simp only [BitVec.getLsbD, Nat.testBit_zero, h, decide_false, Bool.false_eq_true, if_false, hshift]

theorem crcBits_eq_iterate (n : Nat) : crcBits n = crcBit^[n] := by
  induction n with
  | zero => rfl
  | succ n ih => rw [Function.iterate_succ, ← ih]; rfl

theorem crcBits_toNat (n : Nat) (c : Half) : (crcBits n c).toNat = crcBitNat^[n] c.toNat := by
  rw [crcBits_eq_iterate]
  exact Function.Semiconj.iterate_right crcBit_toNat n c

/-- Settles O21: on numbers the loop is the iteration of `crcBitNat`, started from the byte XORed in. -/
theorem crc16CommandReturnsTheBitLoopCrc : Obligations.Crc16CommandReturnsTheBitLoopCrc := by
  refine ⟨fun a => (definedOpcodesSelectTheirCommand a).1, fun _ _ => rfl, crc16_nil, crc16_concat, fun c b => ?_⟩
  have hin : (c ^^^ b.setWidth 16).toNat = c.toNat ^^^ b.toNat := by
    rw [BitVec.toNat_xor, BitVec.toNat_setWidth_of_le (by decide)]
  rw [← hin]
  exact crcBits_toNat 8 _

/-! ### The table form (R92) -/

/-- A difference that leaves bit 0 alone is only shifted. -/
theorem crcBit_xor_of_low_zero (x : Half) {d : Half} (hd : d.getLsbD 0 = false) :
    crcBit (x ^^^ d) = crcBit x ^^^ d >>> 1 := by
  unfold crcBit
  rw [BitVec.getLsbD_xor, hd, Bool.xor_false, BitVec.ushiftRight_xor_distrib]
  split
  · ac_rfl
  · rfl

/-- A difference above the n bits that the loop consumes is only shifted. -/
theorem crcBits_xor_of_low_zero (n : Nat) (x : Half) {d : Half} (hd : ∀ k < n, d.getLsbD k = false) :
    crcBits n (x ^^^ d) = crcBits n x ^^^ d >>> n := by
  induction n generalizing x d with
  | zero => simp
  | succ n ih =>
    have hshift : ∀ k < n, (d >>> 1).getLsbD k = false := fun k hk => by
      rw [BitVec.getLsbD_ushiftRight]
      exact hd (1 + k) (by omega)
    rw [crcBits_succ, crcBit_xor_of_low_zero x (hd 0 n.succ_pos), ih _ hshift, crcBits_succ,
      ← BitVec.shiftRight_add, Nat.add_comm]

/-- The printed table is R91's loop started from each index. -/
theorem crcTable_eq_map : crcTable = (List.range 256).map fun i => crcStep (BitVec.ofNat 16 i) 0#8 := by
  decide +kernel

theorem crcTable_getElem? {i : Nat} (hi : i < 256) : crcTable[i]? = some (crcStep (BitVec.ofNat 16 i) 0#8) := by
  simp [crcTable_eq_map, hi]

/-- The table entry of a byte is the eight iterations started from it. -/
theorem crcTable_getD_toNat (b : Byte) : crcTable.getD b.toNat 0#16 = crcBits 8 (b.setWidth 16) := by
  rw [List.getD_eq_getElem?_getD, crcTable_getElem? b.isLt, Option.getD_some, crcStep, BitVec.ofNat_toNat,
    BitVec.setWidth_zero, BitVec.xor_zero]

/-- The byte enters at the low end: the register's high byte is what the low byte of the sum leaves over. -/
theorem xor_setWidth_eq (c : Half) (b : Byte) :
    c ^^^ b.setWidth 16 = ((c ^^^ b.setWidth 16).extractLsb' 0 8).setWidth 16 ^^^ (c >>> 8) <<< 8 := by
  refine BitVec.eq_of_getLsbD_eq fun k hk => ?_
  by_cases h : k < 8
  · simp [h, hk]
  · have hadd : 8 + (k - 8) = k := by omega
    simp [h, hk, hadd, BitVec.getLsbD_of_ge b k (by omega)]

theorem crcStepTable_eq_crcStep (c : Half) (b : Byte) : crcStepTable c b = crcStep c b := by
  have hlow : ∀ k < 8, ((c >>> 8) <<< 8).getLsbD k = false := fun k hk => by simp [hk]
  have hhigh : ((c >>> 8) <<< 8) >>> 8 = c >>> 8 := by
    refine BitVec.eq_of_getLsbD_eq fun k hk => ?_
    by_cases h : 8 + k < 16
    · simp [h]
    · simp [h, BitVec.getLsbD_of_ge c (8 + k) (by omega)]
  rw [crcStepTable, crcTable_getD_toNat, crcStep, xor_setWidth_eq c b, crcBits_xor_of_low_zero 8 _ hlow, hhigh,
    ← xor_setWidth_eq c b, BitVec.xor_comm]

/-- Settles O22: the table is computed once from the loop, and the loop only shifts the register's high byte. -/
theorem tableDrivenCrcAgreesWithTheBitLoop : Obligations.TableDrivenCrcAgreesWithTheBitLoop :=
  ⟨by rw [crcTable_eq_map, List.length_map, List.length_range], fun _ hi => crcTable_getElem? hi,
    crcStepTable_eq_crcStep⟩

/-! ### Changed bytes (R93) -/

/-- Bit 15 after an iteration tells which branch was taken, since the shift enters 0 there and bit 15 of 0xA001
is set. -/
theorem crcBit_getLsbD_15 (c : Half) : (crcBit c).getLsbD 15 = c.getLsbD 0 := by
  have hshift : (c >>> 1).getLsbD 15 = false := by simp
  unfold crcBit
  cases c.getLsbD 0 with
  | false => exact hshift
  | true => rw [if_pos rfl, BitVec.getLsbD_xor, hshift]; rfl

theorem crcBit_injective : Function.Injective crcBit := by
  intro c d h
  have hbit : c.getLsbD 0 = d.getLsbD 0 := by rw [← crcBit_getLsbD_15, h, crcBit_getLsbD_15]
  have hshift : c >>> 1 = d >>> 1 := by
    unfold crcBit at h
    rw [hbit] at h
    split at h
    · exact (BitVec.xor_left_inj _).mp h
    · exact h
  refine BitVec.eq_of_getLsbD_eq fun k _ => ?_
  cases k with
  | zero => exact hbit
  | succ k => simpa [Nat.add_comm] using congrArg (·.getLsbD k) hshift

theorem crcBits_injective (n : Nat) : Function.Injective (crcBits n) := by
  rw [crcBits_eq_iterate]
  exact crcBit_injective.iterate n

theorem crcStep_left_inj {c d : Half} (b : Byte) : crcStep c b = crcStep d b ↔ c = d :=
  (crcBits_injective 8).eq_iff.trans (BitVec.xor_left_inj _)

theorem crcStep_right_inj (c : Half) {a b : Byte} : crcStep c a = crcStep c b ↔ a = b := by
  have hext : a.setWidth 16 = b.setWidth 16 ↔ a = b := by
    rw [← BitVec.toNat_inj, BitVec.toNat_setWidth_of_le (by decide), BitVec.toNat_setWidth_of_le (by decide),
      BitVec.toNat_inj]
  exact (crcBits_injective 8).eq_iff.trans ((BitVec.xor_right_inj _).trans hext)

/-- The bytes that follow never bring two different registers together. -/
theorem foldl_crcStep_inj (T : Span) {c d : Half} : T.foldl crcStep c = T.foldl crcStep d ↔ c = d := by
  induction T generalizing c d with
  | nil => rfl
  | cons b T ih => rw [List.foldl_cons, List.foldl_cons, ih, crcStep_left_inj]

/-- Of two spans equal but for one place, only equal bytes there give equal CRCs. -/
theorem crc16_append_cons_inj (P T : Span) {a b : Byte} : crc16 (P ++ a :: T) = crc16 (P ++ b :: T) ↔ a = b := by
  rw [crc16_append, crc16_append, List.foldl_cons, List.foldl_cons, foldl_crcStep_inj, crcStep_right_inj]

/-- Flipping a bit of a byte changes it. -/
theorem xor_one_shiftLeft_ne (b : Byte) {j : Nat} (hj : j < 8) : b ^^^ (1#8 <<< j) ≠ b := by
  intro h
  have := congrArg (·.getLsbD j) h
  simp [hj] at this

theorem crc16_flipBit_ne {S : Span} {i j : Nat} (hi : i < S.length) (hj : j < 8) :
    crc16 (flipBit S i j) ≠ crc16 S := by
  obtain ⟨P, b, T, rfl, -, hflip⟩ := List.exists_of_modify (fun b => b ^^^ (1#8 <<< j)) hi
  rw [flipBit, hflip, Ne, crc16_append_cons_inj]
  exact xor_one_shiftLeft_ne b hj

/-- Settles O23: each crc_step is injective in the register and in the byte. -/
theorem anySingleBitChangeChangesTheCrc : Obligations.AnySingleBitChangeChangesTheCrc :=
  ⟨by decide +kernel, fun _ _ _ hi hj => crc16_flipBit_ne hi hj⟩

end Sys2Proof.Machine

/-! PROOFS. The frame encoder: what emit_frame writes (41_encoder R100, R101), the four encodes (R102 to R105), that
none depends on the profile (R108), and that DECODE undoes each of them (R107). -/

namespace Sys2Proof.Machine

/-! ### The frame and its emission -/

/-- build_frame gives the wire frame of 30_encoding R60. -/
theorem buildFrame_eq_wireFrame (prof : Profile) (t : Byte) (P : Span) : buildFrame prof t P = wireFrame t P := by
  simp only [buildFrame, wireFrame, header_eq, bytesLE16_eq, u8]
  congr 2
  exact BitVec.eq_of_toNat_eq (by simp)

/-- emit_frame uses the profile for the header alone, which both profiles share (30_encoding R61). -/
theorem emitFrame_profile (p q : Profile) (t : Byte) (P : Span) (d : Dest) (s : State) :
    emitFrame p t P d s = emitFrame q t P d s := by
  simp only [emitFrame, buildFrame_eq_wireFrame]

/-- With room for the frame, emit_frame writes it and nothing else (41_encoder R101, 20_memory R50). -/
theorem emitFrame_writes (prof : Profile) (t : Byte) (P : Span) (d : Dest) (s : State) (h : P.length + 6 ≤ d.cap) :
    ∃ w F, emitFrame prof t P d s = .next w ∧ Wrote s w d F ∧ F.length = P.length + 6 ∧ F = wireFrame t P := by
  have hlen := length_buildFrame prof t P
  obtain ⟨hcap, -⟩ | ⟨-, hemit⟩ := emitFrame_cases prof t P d s
  · omega
  refine ⟨_, _, hemit, ⟨?_, fun i hi => ?_, fun a ha => ?_⟩, hlen, buildFrame_eq_wireFrame prof t P⟩
  · rw [hlen]; rfl
  · rw [State.answer_out, Memory.read_writeSpan, if_pos (by omega), Nat.add_sub_cancel_left]
  · rw [State.answer_out, Memory.read_writeSpan, if_neg (by omega)]

/-- An emit_frame that answers OK leaves exactly its frame in OUT[0..frame_len). -/
theorem eq_buildFrame_of_emitFrame {prof : Profile} {t : Byte} {P F : Span} {d : Dest} {s w : State} {n : Nat}
    (hemit : emitFrame prof t P d s = .next w) (hok : w.reply = some { status := .ok, results := .frameLen n })
    (hread : Memory.readSpan w.out d.base n = some F) : F = buildFrame prof t P ∧ n = P.length + 6 := by
  obtain ⟨-, h⟩ | ⟨-, h⟩ := emitFrame_cases prof t P d s <;> rw [h] at hemit <;> cases hemit
  · simp at hok
  · obtain rfl : P.length + 6 = n := by simpa using hok
    rw [State.answer_out, ← length_buildFrame prof t P, Memory.readSpan_writeSpan] at hread
    exact ⟨(Option.some.inj hread).symm, rfl⟩

/-! ### Decoding a built frame -/

/-- The length byte, payload and CRC that build_frame writes (41_encoder R100). -/
def builtFields (t : Byte) (P : Span) : FrameFields where
  len := u8 (1 + P.length)
  payload := P
  rxCrc := crc16 ([u8 (1 + P.length), t] ++ P)

theorem buildFrame_eq_frameBytes (prof : Profile) (t : Byte) (P : Span) :
    buildFrame prof t P = frameBytes t (builtFields t P) := by
  simp [buildFrame, frameBytes, builtFields]

theorem builtFields_len_toNat (t : Byte) {P : Span} (hP : P.length ≤ 254) :
    (builtFields t P).len.toNat = P.length + 1 := by
  rw [builtFields, toNat_u8 (by omega), Nat.add_comm]

theorem crcOk_builtFields (t : Byte) (P : Span) : crcOk t (builtFields t P) = true := beq_self_eq_true _

/-- DECODE of a built frame answers the frame's type, crc_ok, what its row parses, and all its bytes consumed. -/
theorem exec_decode_buildFrame (prof prof' : Profile) {t : Byte} {P : Span} {p : Payload} (hP : P.length ≤ 254)
    (hrow : rowResult (rowOfType t (builtFields t P)) = frameResult t (builtFields t P) p) (u : State) :
    exec (.decode prof (buildFrame prof' t P)) u = onlyReply u (okDecoded t true p (P.length + 6)) := by
  have hlen := builtFields_len_toNat t hP
  have hwf : (builtFields t P).wf = true := decide_eq_true hlen
  rw [buildFrame_eq_frameBytes, (decodeRunsTheRowItsSpanSelects prof _ u).1 _ (decode_frameBytes prof t hwf),
    exec_toInstr, hrow, frameResult, crcOk_builtFields, hlen]
  rfl

/-- The round trip of emit_frame: what remains for each encode is that its row parses its payload. -/
theorem exec_decode_of_emitFrame {prof : Profile} {t : Byte} {P F : Span} {d : Dest} {s w : State} {n : Nat}
    {p : Payload} (hok : w.reply = some { status := .ok, results := .frameLen n })
    (hread : Memory.readSpan w.out d.base n = some F) (hemit : emitFrame prof t P d s = .next w)
    (hP : P.length ≤ 254)
    (hrow : rowResult (rowOfType t (builtFields t P)) = frameResult t (builtFields t P) p) (u : State) :
    exec (.decode prof F) u = onlyReply u (okDecoded t true p n) := by
  obtain ⟨rfl, rfl⟩ := eq_buildFrame_of_emitFrame hemit hok hread
  exact exec_decode_buildFrame prof prof hP hrow u

/-! ### The payloads -/

/-- The indexes below n, in order, are the first n. -/
theorem filter_lt_finRange (m n : Nat) :
    (List.finRange m).filter (fun i => decide (i.val < n)) = (List.finRange m).take n := by
  induction m generalizing n with
  | zero => simp
  | succ m ih =>
    cases n with
    | zero => simp
    | succ n =>
      rw [List.finRange_succ, List.filter_cons_of_pos (by simp), List.take_succ_cons, List.filter_map,
        ← List.map_take, ← ih n]
      simp [Function.comp_def]

/-- The first n entries of an array, index by index. -/
theorem take_toList_eq_map_filter {α : Type} {m : Nat} (v : Vector α m) (n : Nat) :
    v.toList.take n = ((List.finRange m).filter fun i => decide (i.val < n)).map fun i => v[i] := by
  rw [filter_lt_finRange, List.map_take]
  congr 1
  apply List.ext_getElem <;> simp

theorem length_take_toList {α : Type} {m n : Nat} (v : Vector α m) (h : n ≤ m) : (v.toList.take n).length = n := by
  simp [h]

theorem length_flatMap_bytesLE16 (cs : List Half) : (cs.flatMap bytesLE16).length = 2 * cs.length := by
  simp [List.length_flatMap, Nat.mul_comm]

/-- Entry i of a list of u16 stands at bytes 2i and 2i + 1, low byte first. -/
theorem le16_getD_flatMap_bytesLE16 {cs : List Half} {i : Nat} (hi : i < cs.length) :
    le16 ((cs.flatMap bytesLE16).getD (2 * i) 0#8) ((cs.flatMap bytesLE16).getD (2 * i + 1) 0#8) = cs[i] := by
  induction cs generalizing i with
  | nil => simp at hi
  | cons c cs ih =>
    cases i with
    | zero => exact le16_bytes c
    | succ i => exact ih (by simpa using hi)

theorem length_rcPayload {r : RcInput} (h : r.channelCount.toNat ≤ 8) :
    (rcPayload r).length = 2 * r.channelCount.toNat + 1 := by
  rw [rcPayload, List.length_cons, length_flatMap_bytesLE16, length_take_toList _ h]

theorem length_tlmPayload (r : Tlm) : (tlmPayload r).length = 14 := rfl

theorem length_extPayload {r : ExtInput} (h : r.paramLen.toNat ≤ 32) :
    (extPayload r).length = r.paramLen.toNat + 2 := by
  rw [extPayload, List.length_append, length_take_toList _ h, Nat.add_comm]
  rfl

/-- The declared count of an encoded payload is whole, so the clamps of 42_decoder R133 keep it. -/
theorem rcCount_rcPayload {r : RcInput} (h : r.channelCount.toNat ≤ 8) :
    rcCount (rcPayload r) = r.channelCount.toNat := by
  have hg : g (rcPayload r) 0 = r.channelCount := rfl
  rw [rcCount, hg, length_rcPayload h, Config.maxCh]
  omega

theorem extLen_extPayload {r : ExtInput} (h : r.paramLen.toNat ≤ 32) :
    extLen (extPayload r) = r.paramLen.toNat := by
  have hg : g (extPayload r) 1 = r.paramLen := rfl
  rw [extLen, hg, length_extPayload h, Config.maxParam]
  omega

theorem u8_toNat (b : Byte) : u8 b.toNat = b := BitVec.ofNat_toNat 8 b

theorem parseRc_rcPayload {r : RcInput} (h : r.channelCount.toNat ≤ 8) :
    parseRc (rcPayload r) = {
      channelCount := r.channelCount
      channels := Vector.ofFn fun i => if i.val < r.channelCount.toNat then r.channels[i] else 0#16 } := by
  rw [parseRc, rcCount_rcPayload h, u8_toNat]
  congr 2
  funext i
  split_ifs with hi
  · have hentry := le16_getD_flatMap_bytesLE16 (cs := r.channels.toList.take r.channelCount.toNat) (i := i.val)
      (by rwa [length_take_toList _ h])
    rw [List.getElem_take, Vector.getElem_toList] at hentry
    rw [Nat.add_comm 1, Nat.add_comm 2]
    exact hentry
  · rfl

theorem parseTlm_tlmPayload (r : Tlm) : parseTlm (tlmPayload r) = r := by
  simp [parseTlm, tlmPayload, bytesLE16, bytesLE32, g, le16_bytes, le32_bytes]

theorem parseExt_extPayload {r : ExtInput} (h : r.paramLen.toNat ≤ 32) :
    parseExt (extPayload r) = {
      cmdId := r.cmdId
      paramLen := r.paramLen
      params := Vector.ofFn fun j => if j.val < r.paramLen.toNat then r.params[j] else 0#8 } := by
  rw [parseExt, extLen_extPayload h, u8_toNat]
  congr 2
  funext j
  split_ifs with hj
  · simp [extPayload, g, Nat.add_comm 2, hj]
  · rfl

/-! ### The commands -/

/-- ENC_RC emits the frame of its payload exactly when the count is 1 to 8 (41_encoder R102). -/
theorem execEncRc_cases (prof : Profile) (r : RcInput) (d : Dest) (s : State) :
    ((r.channelCount.toNat < 1 ∨ 8 < r.channelCount.toNat) ∧
      exec (.encRc prof r d) s = .next (s.failEncode d .invalidChannelCount)) ∨
    (1 ≤ r.channelCount.toNat ∧ r.channelCount.toNat ≤ 8 ∧
      exec (.encRc prof r d) s = emitFrame prof 0x01#8 (rcPayload r) d s) := by
  by_cases h : r.channelCount.toNat < 1 ∨ 8 < r.channelCount.toNat
  · exact .inl ⟨h, if_pos h⟩
  · exact .inr ⟨by omega, by omega, if_neg h⟩

/-- ENC_EXT emits the frame of its payload exactly when the length is at most 32 (41_encoder R105). -/
theorem execEncExt_cases (prof : Profile) (r : ExtInput) (d : Dest) (s : State) :
    (32 < r.paramLen.toNat ∧ exec (.encExt prof r d) s = .next (s.failEncode d .bufferTooSmall)) ∨
    (r.paramLen.toNat ≤ 32 ∧ exec (.encExt prof r d) s = emitFrame prof 0x04#8 (extPayload r) d s) := by
  by_cases h : 32 < r.paramLen.toNat
  · exact .inl ⟨h, if_pos h⟩
  · exact .inr ⟨by omega, if_neg h⟩

/-- Settles O29: the reply is OK, so the command emitted the frame of its payload, and its row parses that payload
back to the input. -/
theorem decodingAnEncodedFrameGivesItsFieldsBack : Obligations.DecodingAnEncodedFrameGivesItsFieldsBack := by
  intro prof d s t u n F hok hread
  refine ⟨fun r h => ?_, fun r h => ?_, fun st h => ?_, fun r h => ?_⟩
  · obtain ⟨-, hexec⟩ | ⟨-, hle, hexec⟩ := execEncRc_cases prof r d s <;> rw [hexec] at h
    · cases h
      simp at hok
    · refine exec_decode_of_emitFrame hok hread h (by rw [length_rcPayload hle]; omega) ?_ u
      exact congrArg (fun p => frameResult 0x01#8 _ (.rc p)) (parseRc_rcPayload hle)
  · refine exec_decode_of_emitFrame hok hread h (by rw [length_tlmPayload]; omega) ?_ u
    exact congrArg (fun p => frameResult 0x02#8 _ (.tlm p)) (parseTlm_tlmPayload r)
  · exact exec_decode_of_emitFrame hok hread h (P := [st]) (by simp) rfl u
  · obtain ⟨-, hexec⟩ | ⟨hle, hexec⟩ := execEncExt_cases prof r d s <;> rw [hexec] at h
    · cases h
      simp at hok
    · refine exec_decode_of_emitFrame hok hread h (by rw [length_extPayload hle]; omega) ?_ u
      exact congrArg (fun p => frameResult 0x04#8 _ (.ext p)) (parseExt_extPayload hle)

/-- Settles O24: the count is legal, so the command emits the frame of its payload. -/
theorem encodeRemoteControlWritesItsFrame : Obligations.EncodeRemoteControlWritesItsFrame := by
  intro prof r d s hpos hle hcap
  obtain ⟨hbad, -⟩ | ⟨-, -, hexec⟩ := execEncRc_cases prof r d s
  · omega
  have hlen := length_rcPayload hle
  obtain ⟨t, F, hemit, hwrote, hF, rfl⟩ := emitFrame_writes prof 0x01#8 (rcPayload r) d s (by omega)
  refine ⟨t, _, hexec.trans hemit, hwrote, by omega, ?_⟩
  rw [rcPayload, take_toList_eq_map_filter, List.flatMap_map]
  simp only [bytesLE16_eq]

/-- Settles O25: the payload is the 14 bytes of the record. -/
theorem encodeTelemetryWritesItsFrame : Obligations.EncodeTelemetryWritesItsFrame := by
  intro prof r d s hcap
  obtain ⟨t, F, hemit, hwrote, hF, rfl⟩ := emitFrame_writes prof 0x02#8 (tlmPayload r) d s hcap
  refine ⟨t, _, hemit, hwrote, hF, ?_⟩
  simp only [tlmPayload, bytesLE16_eq, bytesLE32_eq]
  rfl

/-- Settles O26: the payload is the status byte. -/
theorem encodeHeartbeatWritesItsFrame : Obligations.EncodeHeartbeatWritesItsFrame :=
  fun prof st d s hcap => emitFrame_writes prof 0x03#8 [st] d s hcap

/-- Settles O27: the length is legal, so the command emits the frame of its payload. -/
theorem encodeExtendedCommandWritesItsFrame : Obligations.EncodeExtendedCommandWritesItsFrame := by
  intro prof r d s hle hcap
  obtain ⟨hbad, -⟩ | ⟨-, hexec⟩ := execEncExt_cases prof r d s
  · omega
  have hlen := length_extPayload hle
  obtain ⟨t, F, hemit, hwrote, hF, rfl⟩ := emitFrame_writes prof 0x04#8 (extPayload r) d s (by omega)
  refine ⟨t, _, hexec.trans hemit, hwrote, by omega, ?_⟩
  rw [extPayload, take_toList_eq_map_filter]
  rfl

/-- Settles O30: the profile reaches emit_frame alone. -/
theorem encodersDoNotDependOnTheProfile : Obligations.EncodersDoNotDependOnTheProfile := by
  refine fun p q d s => ⟨fun r => ?_, fun r => emitFrame_profile p q _ _ d s, fun st => emitFrame_profile p q _ _ d s,
    fun r => ?_⟩
  · simp only [exec, execEncRc, emitFrame_profile p q]
  · simp only [exec, execEncExt, emitFrame_profile p q]

end Sys2Proof.Machine

/-! PROOFS. What DECODE answers, on the raw span (42_decoder R130, R138, R139; 60_exceptions R205): a span is too short
to decide, or has a bad header, or begins with a complete frame. -/

namespace Sys2Proof.Machine

/-! ### The three kinds of spans -/

/-- S is too short for the test that would decide (42_decoder R138). -/
def TooShort (S : Span) : Prop :=
  S.length < 2 ∨
  (S.getD 0 0#8 = 0xAA#8 ∧ S.getD 1 0#8 = 0x55#8 ∧ S.length < 3) ∨
  (S.getD 0 0#8 = 0xAA#8 ∧ S.getD 1 0#8 = 0x55#8 ∧ 3 ≤ S.length ∧ 1 ≤ (S.getD 2 0#8).toNat ∧
    S.length < (S.getD 2 0#8).toNat + 5)

/-- S begins with two bytes that are not the sync pattern, or with the sync pattern and length byte 0 (42_decoder R130
steps 2 and 3, 30_encoding R73). -/
def BadHeader (S : Span) : Prop :=
  (2 ≤ S.length ∧ (S.getD 0 0#8 ≠ 0xAA#8 ∨ S.getD 1 0#8 ≠ 0x55#8)) ∨
  (3 ≤ S.length ∧ S.getD 0 0#8 = 0xAA#8 ∧ S.getD 1 0#8 = 0x55#8 ∧ S.getD 2 0#8 = 0#8)

theorem TooShort.length_le {S : Span} (h : TooShort S) : S.length ≤ 259 := by
  have hL := (S.getD 2 0#8).isLt
  unfold TooShort at h
  omega

theorem TooShort.not_badHeader {S : Span} (h : TooShort S) : ¬ BadHeader S := by
  rintro (⟨hlen, hsync⟩ | ⟨hlen, h0, h1, h2⟩)
  · obtain hlt | ⟨h0, h1, -⟩ | ⟨h0, h1, -⟩ := h
    · omega
    · exact hsync.elim (· h0) (· h1)
    · exact hsync.elim (· h0) (· h1)
  · obtain hlt | ⟨-, -, hlt⟩ | ⟨-, -, -, hpos, -⟩ := h
    · omega
    · omega
    · exact absurd hpos (by rw [h2]; decide)

theorem CompleteFrame.not_tooShort {S : Span} {L : Nat} (h : CompleteFrame S L) : ¬ TooShort S := by
  obtain ⟨-, -, hL, hpos, hlen⟩ := h
  unfold TooShort
  omega

theorem CompleteFrame.not_badHeader {S : Span} {L : Nat} (h : CompleteFrame S L) : ¬ BadHeader S := by
  obtain ⟨h0, h1, hL, hpos, -⟩ := h
  rintro (⟨-, hsync⟩ | ⟨-, -, -, h2⟩)
  · exact hsync.elim (· h0) (· h1)
  · rw [h2, BitVec.toNat_zero] at hL
    omega

/-! ### More bytes, and fewer -/

theorem BadHeader.append {S : Span} (h : BadHeader S) (T : Span) : BadHeader (S ++ T) := by
  obtain ⟨hlen, hsync⟩ | ⟨hlen, h0, h1, h2⟩ := h
  · refine .inl ⟨by rw [List.length_append]; omega, ?_⟩
    rwa [List.getD_append _ _ _ _ (by omega), List.getD_append _ _ _ _ (by omega)]
  · refine .inr ⟨by rw [List.length_append]; omega, ?_⟩
    rw [List.getD_append _ _ _ _ (by omega), List.getD_append _ _ _ _ (by omega), List.getD_append _ _ _ _ (by omega)]
    exact ⟨h0, h1, h2⟩

/-- A bad header is bad by its first two bytes or by its first three. -/
theorem BadHeader.take {S : Span} (h : BadHeader S) : BadHeader (S.take 2) ∨ BadHeader (S.take 3) := by
  obtain ⟨hlen, hsync⟩ | ⟨hlen, hbytes⟩ := h
  · exact .inl (.inl ⟨by simp [hlen], by simpa using hsync⟩)
  · exact .inr (.inr ⟨by simp [hlen], by simpa using hbytes⟩)

/-! ### The wire bytes of a complete frame -/

theorem len_toNat_of_wf {f : FrameFields} (hf : f.wf = true) : f.len.toNat = f.payload.length + 1 :=
  of_decide_eq_true hf

theorem length_frameBytes (t : Byte) {f : FrameFields} (hf : f.wf = true) :
    (frameBytes t f).length = f.len.toNat + 5 := by
  simp [frameBytes, len_toNat_of_wf hf]

theorem completeFrame_frameBytes_append (t : Byte) {f : FrameFields} (hf : f.wf = true) (R : Span) :
    CompleteFrame (frameBytes t f ++ R) f.len.toNat := by
  have hL := len_toNat_of_wf hf
  refine ⟨by simp [frameBytes], by simp [frameBytes], by simp [frameBytes], by omega, ?_⟩
  rw [List.length_append, length_frameBytes t hf]
  omega

theorem getD_three_frameBytes_append (t : Byte) (f : FrameFields) (R : Span) :
    (frameBytes t f ++ R).getD 3 0#8 = t := by
  simp [frameBytes]

/-- `g` of 42_decoder R132 on the raw span is that of the payload. -/
theorem payloadByte_frameBytes_append (t : Byte) {f : FrameFields} (hf : f.wf = true) (R : Span) (j : Nat) :
    payloadByte (frameBytes t f ++ R) f.len.toNat j = g f.payload j := by
  have hL := len_toNat_of_wf hf
  rw [payloadByte, hL, Nat.add_sub_cancel]
  split_ifs with hj
  · simp [frameBytes, g, Nat.add_comm 4, List.getElem?_append_left hj]
  · rw [g_of_ge (by omega)]

/-! ### The answers of DECODE -/

/-- The payload of a frame of type t, by the choice of 42_decoder R132. -/
def parsePayload (t : Byte) (P : Span) : Payload :=
  if t = 0x01#8 then .rc (parseRc P)
  else if t = 0x02#8 then .tlm (parseTlm P)
  else if t = 0x03#8 then .hb (parseHb P)
  else if t = 0x04#8 then .ext (parseExt P)
  else .raw (parseRaw P)

/-- The frame that DECODE gives for the fields of a frame of type t (42_decoder R130 steps 4 and 5). -/
def parsedFrame (t : Byte) (f : FrameFields) : ParsedFrame where
  frameType := t
  crcOk := crcOk t f
  payload := parsePayload t f.payload

theorem rowResult_rowOfType (t : Byte) (f : FrameFields) :
    rowResult (rowOfType t f) = .ok (parsedFrame t f) (f.len.toNat + 5) := by
  unfold rowOfType parsedFrame parsePayload
  split_ifs with h1 h2 h3 h4
  · rw [h1]; rfl
  · rw [h2]; rfl
  · rw [h3]; rfl
  · rw [h4]; rfl
  · rfl

/-- DECODE of the wire bytes of a well-formed frame gives that frame and consumes those bytes, whatever follows them. -/
theorem decodeSpan_frameBytes_append (prof : Profile) (t : Byte) {f : FrameFields} (hf : f.wf = true) (R : Span) :
    decodeSpan prof (frameBytes t f ++ R) = .ok (.ok (parsedFrame t f) (frameBytes t f).length) := by
  have hrow := decodeFrame_complete prof f.len t (f.rxCrc.extractLsb' 0 8) (f.rxCrc.extractLsb' 8 8) f.payload R
    (len_toNat_of_wf hf)
  have hS : frameBytes t f ++ R = 0xAA#8 :: 0x55#8 :: f.len :: t ::
      (f.payload ++ f.rxCrc.extractLsb' 0 8 :: f.rxCrc.extractLsb' 8 8 :: R) := by
    simp [frameBytes, bytesLE16]
  rw [le16_bytes] at hrow
  rw [decodeSpan, hS, hrow, length_frameBytes t hf]
  exact congrArg Except.ok (rowResult_rowOfType t f)

theorem decodeSpan_frameBytes (prof : Profile) (t : Byte) {f : FrameFields} (hf : f.wf = true) :
    decodeSpan prof (frameBytes t f) = .ok (.ok (parsedFrame t f) (frameBytes t f).length) := by
  simpa using decodeSpan_frameBytes_append prof t hf []

/-- A span is of one of the three kinds, and each has its own answer. -/
theorem decodeSpan_cases (prof : Profile) (S : Span) :
    (TooShort S ∧ decodeSpan prof S = .ok .incomplete) ∨
    (BadHeader S ∧ decodeSpan prof S = .ok .invalidHeader) ∨
    ∃ t f R, S = frameBytes t f ++ R ∧ f.wf = true ∧
      decodeSpan prof S = .ok (.ok (parsedFrame t f) (frameBytes t f).length) := by
  obtain hS | ⟨b0, b1, R, rfl, hb⟩ | rfl | ⟨R, rfl⟩ | ⟨L, R, rfl, hL, hR⟩ | ⟨L, t, P, lo, hi, R, rfl, hL⟩ :=
    span_cases S
  · exact .inl ⟨.inl hS, decodeSpan_short prof hS⟩
  · exact .inr (.inl ⟨.inl ⟨by simp, by simpa using hb⟩, by rw [decodeSpan, decodeFrame_badSync prof b0 b1 R hb]; rfl⟩)
  · exact .inl ⟨.inr (.inl (by decide)), by rw [decodeSpan, decodeFrame_header]⟩
  · exact .inr (.inl ⟨.inr (by simp), by rw [decodeSpan, decodeFrame_len0]; rfl⟩)
  · have hpos : 1 ≤ L.toNat := Nat.one_le_iff_ne_zero.mpr fun h0 => hL (BitVec.eq_of_toNat_eq h0)
    refine .inl ⟨.inr (.inr ⟨rfl, rfl, by simp, hpos, ?_⟩), by rw [decodeSpan, decodeFrame_partial prof L R hL hR]⟩
    simp only [List.length_cons, List.getD_cons_succ, List.getD_cons_zero]
    omega
  · have hf : FrameFields.wf ⟨L, P, le16 lo hi⟩ = true := decide_eq_true hL
    have hS : 0xAA#8 :: 0x55#8 :: L :: t :: (P ++ lo :: hi :: R) = frameBytes t ⟨L, P, le16 lo hi⟩ ++ R := by
      simp [frameBytes, bytesLE16_le16]
    exact .inr (.inr ⟨t, _, R, hS, hf, hS ▸ decodeSpan_frameBytes_append prof t hf R⟩)

theorem decodeSpan_eq_incomplete_iff {prof : Profile} {S : Span} :
    decodeSpan prof S = .ok .incomplete ↔ TooShort S := by
  obtain ⟨hS, h⟩ | ⟨hS, h⟩ | ⟨t, f, R, rfl, hf, h⟩ := decodeSpan_cases prof S
  · exact iff_of_true h hS
  · exact iff_of_false (by simp [h]) fun hshort => hshort.not_badHeader hS
  · exact iff_of_false (by simp [h]) (completeFrame_frameBytes_append t hf R).not_tooShort

theorem decodeSpan_eq_invalidHeader_iff {prof : Profile} {S : Span} :
    decodeSpan prof S = .ok .invalidHeader ↔ BadHeader S := by
  obtain ⟨hS, h⟩ | ⟨hS, h⟩ | ⟨t, f, R, rfl, hf, h⟩ := decodeSpan_cases prof S
  · exact iff_of_false (by simp [h]) hS.not_badHeader
  · exact iff_of_true h hS
  · exact iff_of_false (by simp [h]) (completeFrame_frameBytes_append t hf R).not_badHeader

/-- An OK result is that of the frame the span begins with, all of whose bytes are consumed. -/
theorem exists_frameBytes_of_decodeSpan_eq_ok {prof : Profile} {S : Span} {F : ParsedFrame} {c : Nat}
    (h : decodeSpan prof S = .ok (.ok F c)) :
    ∃ t f R, S = frameBytes t f ++ R ∧ f.wf = true ∧ F = parsedFrame t f ∧ c = (frameBytes t f).length := by
  obtain ⟨-, h'⟩ | ⟨-, h'⟩ | ⟨t, f, R, hS, hf, h'⟩ := decodeSpan_cases prof S <;> rw [h'] at h <;> cases h
  exact ⟨t, f, R, hS, hf, rfl, rfl⟩

/-- Settles O38: a complete frame gives the same result on its own and before other bytes, and so does a bad header
of two or three bytes. -/
theorem decodeReadsOnlyThePrefixItNeeds : Obligations.DecodeReadsOnlyThePrefixItNeeds := by
  refine fun prof S T => ⟨fun F c h => ?_, fun h => ⟨?_, ?_⟩, fun h => ?_, decodeSpan_eq_incomplete_iff⟩
  · obtain ⟨t, f, R, rfl, hf, rfl, rfl⟩ := exists_frameBytes_of_decodeSpan_eq_ok h
    rw [List.take_left, List.append_assoc]
    exact ⟨by simp, decodeSpan_frameBytes prof t hf, decodeSpan_frameBytes_append prof t hf _⟩
  · simpa only [decodeSpan_eq_invalidHeader_iff] using (decodeSpan_eq_invalidHeader_iff.mp h).take
  · exact decodeSpan_eq_invalidHeader_iff.mpr ((decodeSpan_eq_invalidHeader_iff.mp h).append T)
  · exact (decodeSpan_eq_incomplete_iff.mp h).length_le

/-- The profile reaches the header bytes alone, which both profiles share (30_encoding R61). -/
theorem decodeSpan_profile (p q : Profile) (S : Span) : decodeSpan p S = decodeSpan q S := by
  simp only [decodeSpan, decodeFrame, headerByte1_eq, headerByte2_eq]

/-- Settles O39: one result for the span, whatever the profile, and DECODE answers it without looking at the state. -/
theorem decodeDependsOnItsSpanAlone : Obligations.DecodeDependsOnItsSpanAlone := by
  intro S
  obtain ⟨r, hr⟩ := exists_decodeSpan_eq_ok .A S
  exact ⟨r.reply, fun prof s => exec_decode_of_decodeSpan ((decodeSpan_profile prof .A S).trans hr) s⟩

end Sys2Proof.Machine

/-! PROOFS. What DECODE parses out of a complete frame, type by type (42_decoder R132 to R137). -/

namespace Sys2Proof.Machine

/-! ### A complete frame -/

/-- A complete frame is the wire bytes of its fields, with its own type byte. -/
theorem CompleteFrame.exists_frameBytes {S : Span} {L : Nat} (h : CompleteFrame S L) :
    ∃ f R, S = frameBytes (S.getD 3 0#8) f ++ R ∧ f.wf = true ∧ f.len.toNat = L := by
  obtain ⟨hS, -⟩ | ⟨hS, -⟩ | ⟨t, f, R, rfl, hf, -⟩ := decodeSpan_cases .A S
  · exact absurd hS h.not_tooShort
  · exact absurd hS h.not_badHeader
  · obtain ⟨-, -, hlen, -⟩ := completeFrame_frameBytes_append t hf R
    obtain ⟨-, -, hL, -⟩ := h
    exact ⟨f, R, by rw [getD_three_frameBytes_append], hf, hlen.symm.trans hL⟩

/-- DECODE of a complete frame answers its type, what that type parses out of the L - 1 payload bytes, and L + 5 bytes
consumed (42_decoder R130). -/
theorem CompleteFrame.exec_decode {S : Span} {L : Nat} (h : CompleteFrame S L) :
    ∃ (ok : Bool) (P : Span), P.length = L - 1 ∧ P.length ≤ 254 ∧ (∀ j, payloadByte S L j = g P j) ∧
      ∀ prof s, exec (.decode prof S) s =
        onlyReply s (okDecoded (S.getD 3 0#8) ok (parsePayload (S.getD 3 0#8) P) (L + 5)) := by
  obtain ⟨f, R, hS, hf, rfl⟩ := h.exists_frameBytes
  generalize S.getD 3 0#8 = t at hS ⊢
  subst hS
  have hlen := len_toNat_of_wf hf
  refine ⟨crcOk t f, f.payload, by omega, FrameFields.payload_length_le hf, payloadByte_frameBytes_append t hf R,
    fun prof s => ?_⟩
  rw [exec_decode_of_decodeSpan (decodeSpan_frameBytes_append prof t hf R), length_frameBytes t hf]
  rfl

/-! ### The parsers, field by field -/

theorem parseRc_channelCount_toNat (P : Span) : (parseRc P).channelCount.toNat = rcCount P :=
  toNat_u8 (by have : rcCount P ≤ 8 := (min_le_right _ _).trans (min_le_left _ _); omega)

theorem parseRc_channels_toNat (P : Span) (i : Fin 8) :
    (parseRc P).channels[i].toNat =
      if i.val < rcCount P then (g P (1 + 2 * i.val)).toNat + 256 * (g P (2 + 2 * i.val)).toNat else 0 := by
  simp only [parseRc, Fin.getElem_fin, Vector.getElem_ofFn]
  split_ifs
  · exact le16_toNat _ _
  · rfl

theorem parseExt_paramLen_toNat (P : Span) : (parseExt P).paramLen.toNat = extLen P :=
  toNat_u8 (by have : extLen P ≤ 32 := (min_le_right _ _).trans (min_le_left _ _); omega)

theorem parseExt_params (P : Span) (j : Fin 32) :
    (parseExt P).params[j] = if j.val < extLen P then g P (2 + j.val) else 0#8 := by
  simp [parseExt]

theorem parseRaw_raw (P : Span) (j : Fin 254) : (parseRaw P).raw[j] = g P j.val := by
  simp [parseRaw]

/-- Two bytes read as an i16: two's complement (00_scope R10; log 10). -/
theorem le16_toInt (lo hi : Byte) : (le16 lo hi).toInt = Int.bmod (lo.toNat + 256 * hi.toNat) (2 ^ 16) := by
  rw [BitVec.toInt_eq_toNat_bmod, le16_toNat]
  norm_cast

/-- Four bytes read as an i32: two's complement (00_scope R10; log 10). -/
theorem le32_toInt (b0 b1 b2 b3 : Byte) :
    (le32 b0 b1 b2 b3).toInt =
      Int.bmod (b0.toNat + 2 ^ 8 * b1.toNat + 2 ^ 16 * b2.toNat + 2 ^ 24 * b3.toNat) (2 ^ 32) := by
  rw [BitVec.toInt_eq_toNat_bmod, le32_toNat]
  norm_cast

/-! ### The types -/

/-- Settles O32: the row of type 0x01 parses the payload with `parseRc`. -/
theorem decodeParsesRemoteControl : Obligations.DecodeParsesRemoteControl := by
  intro prof S L s h ht
  obtain ⟨ok, P, hP, -, hg, hexec⟩ := h.exec_decode
  rw [ht] at hexec
  refine ⟨ok, parseRc P, hexec prof s, ?_, fun i => ?_⟩
  · rw [parseRc_channelCount_toNat, rcCount, hg, hP, Config.maxCh]
    split_ifs <;> omega
  · rw [parseRc_channels_toNat, parseRc_channelCount_toNat, hg, hg]

/-- Settles O33: the row of type 0x02 parses the payload with `parseTlm`. -/
theorem decodeParsesTelemetry : Obligations.DecodeParsesTelemetry := by
  intro prof S L s h ht
  obtain ⟨ok, P, -, -, hg, hexec⟩ := h.exec_decode
  rw [ht] at hexec
  simp only [hg]
  exact ⟨ok, parseTlm P, hexec prof s, le16_toNat _ _, le16_toNat _ _, le16_toInt _ _, le16_toInt _ _, le16_toInt _ _,
    le32_toInt _ _ _ _⟩

/-- Settles O34: the rows of types 0x03 and 0x04 parse the payload with `parseHb` and `parseExt`. -/
theorem decodeParsesHeartbeatAndExtendedCommand : Obligations.DecodeParsesHeartbeatAndExtendedCommand := by
  intro prof S L s h
  obtain ⟨ok, P, hP, -, hg, hexec⟩ := h.exec_decode
  simp only [hg]
  refine ⟨fun ht => ?_, fun ht => ?_⟩ <;> rw [ht] at hexec
  · exact ⟨ok, hexec prof s⟩
  · refine ⟨ok, parseExt P, hexec prof s, rfl, ?_, fun j => ?_⟩
    · rw [parseExt_paramLen_toNat, extLen, hP, Config.maxParam]
      split_ifs <;> omega
    · rw [parseExt_params, parseExt_paramLen_toNat]

/-- Settles O35: the row of any other type keeps the payload, at most 254 bytes. -/
theorem decodeKeepsUnknownTypesRaw : Obligations.DecodeKeepsUnknownTypesRaw := by
  intro prof S L s h h1 h2 h3 h4
  obtain ⟨ok, P, hP, hle, hg, hexec⟩ := h.exec_decode
  have hraw : parsePayload (S.getD 3 0#8) P = .raw (parseRaw P) := by
    rw [parsePayload, if_neg h1, if_neg h2, if_neg h3, if_neg h4]
  rw [hraw] at hexec
  exact ⟨ok, parseRaw P, hexec prof s, (toNat_u8 (by omega)).trans hP, fun j => (parseRaw_raw P j).trans (hg j).symm⟩

end Sys2Proof.Machine

/-! PROOFS. One flipped bit of a frame (42_decoder R140 (a) and (b)). -/

namespace Sys2Proof.Machine

/-! ### Flipping a bit -/

theorem length_flipBit (S : Span) (i j : Nat) : (flipBit S i j).length = S.length :=
  List.length_modify _ _ _

theorem getElem?_flipBit_of_ne (S : Span) {i k : Nat} (j : Nat) (h : i ≠ k) : (flipBit S i j)[k]? = S[k]? := by
  simp [flipBit, h]

theorem getD_flipBit_of_ne (S : Span) {i k : Nat} (j : Nat) (h : i ≠ k) :
    (flipBit S i j).getD k 0#8 = S.getD k 0#8 := by
  rw [List.getD_eq_getElem?_getD, List.getD_eq_getElem?_getD, getElem?_flipBit_of_ne S j h]

theorem getD_flipBit_ne {S : Span} {i j : Nat} (hi : i < S.length) (hj : j < 8) :
    (flipBit S i j).getD i 0#8 ≠ S.getD i 0#8 := by
  have hflip : (flipBit S i j).getD i 0#8 = S.getD i 0#8 ^^^ (1#8 <<< j) := by
    simp [flipBit, hi]
  rw [hflip]
  exact xor_one_shiftLeft_ne _ hj

theorem flipBit_ne {S : Span} {i j : Nat} (hi : i < S.length) (hj : j < 8) : flipBit S i j ≠ S :=
  fun h => getD_flipBit_ne hi hj (congrArg (·.getD i 0#8) h)

theorem flipBit_append_left {A : Span} {i : Nat} (hi : i < A.length) (B : Span) (j : Nat) :
    flipBit (A ++ B) i j = flipBit A i j ++ B := by
  refine List.ext_getElem? fun k => ?_
  rcases lt_or_ge k A.length with hk | hk
  · rw [List.getElem?_append_left (by rwa [length_flipBit])]
    simp only [flipBit, List.getElem?_modify, List.getElem?_append_left hk]
  · rw [List.getElem?_append_right (by rwa [length_flipBit]), length_flipBit,
      getElem?_flipBit_of_ne _ j (by omega), List.getElem?_append_right hk]

theorem flipBit_append_right {A : Span} {i : Nat} (hi : A.length ≤ i) (B : Span) (j : Nat) :
    flipBit (A ++ B) i j = A ++ flipBit B (i - A.length) j := by
  refine List.ext_getElem? fun k => ?_
  rcases lt_or_ge k A.length with hk | hk
  · rw [List.getElem?_append_left hk, getElem?_flipBit_of_ne _ j (by omega), List.getElem?_append_left hk]
  · have hiff : i = k ↔ i - A.length = k - A.length := by omega
    simp only [flipBit, List.getElem?_modify, List.getElem?_append_right hk, hiff]

/-! ### The CRC and a flipped bit -/

theorem bytesLE16_injective : Function.Injective bytesLE16 := by
  intro v w h
  obtain ⟨hlo, hhi, -⟩ := List.cons.inj h |>.imp_right List.cons.inj
  rw [← le16_bytes v, hlo, hhi, le16_bytes]

/-- No flipped bit takes a span that ends in its CRC to another one: in the span it changes the CRC that the last two
bytes must be (40_crc R93), and in the last two bytes it leaves the span whose CRC they must be. -/
theorem flipBit_append_crc16_ne {W W' : Span} {i j : Nat} (hi : i < W.length + 2) (hj : j < 8) :
    flipBit (W ++ bytesLE16 (crc16 W)) i j ≠ W' ++ bytesLE16 (crc16 W') := by
  intro h
  have hlen : W.length = W'.length := by simpa [length_flipBit] using congrArg List.length h
  rcases lt_or_ge i W.length with hiW | hiW
  · rw [flipBit_append_left hiW] at h
    obtain ⟨hW, hcrc⟩ := List.append_inj h (by rw [length_flipBit, hlen])
    exact crc16_flipBit_ne hiW hj (hW ▸ (bytesLE16_injective hcrc).symm)
  · rw [flipBit_append_right hiW] at h
    obtain ⟨rfl, hcrc⟩ := List.append_inj h hlen
    exact flipBit_ne (by rw [length_bytesLE16]; omega) hj hcrc

/-- A frame with crc_ok = true is its header, its body and the body's CRC. -/
theorem frameBytes_of_crcOk {t : Byte} {f : FrameFields} (h : crcOk t f = true) :
    frameBytes t f =
      [0xAA#8, 0x55#8] ++ (([f.len, t] ++ f.payload) ++ bytesLE16 (crc16 ([f.len, t] ++ f.payload))) := by
  have hrx : crc16 ([f.len, t] ++ f.payload) = f.rxCrc := eq_of_beq h
  rw [hrx]
  simp [frameBytes]

theorem crcOk_eq_false_of_flipBit {t t' : Byte} {f f' : FrameFields} {i j : Nat} (hok : crcOk t f = true)
    (hi : 2 ≤ i) (hlt : i < (frameBytes t f).length) (hj : j < 8)
    (hflip : flipBit (frameBytes t f) i j = frameBytes t' f') : crcOk t' f' = false := by
  refine Bool.eq_false_iff.mpr fun hok' => ?_
  rw [frameBytes_of_crcOk hok] at hlt hflip
  rw [frameBytes_of_crcOk hok', flipBit_append_right hi] at hflip
  refine flipBit_append_crc16_ne ?_ hj (List.append_cancel_left hflip)
  simp only [List.length_append, List.length_cons, List.length_nil, length_bytesLE16] at hlt ⊢
  omega

/-! ### The frame with a flipped bit -/

theorem badHeader_flipBit {S : Span} {L i j : Nat} (h : CompleteFrame S L) (hi : i < 2) (hj : j < 8) :
    BadHeader (flipBit S i j) := by
  obtain ⟨h0, h1, -, -, hlen⟩ := h
  have hne := getD_flipBit_ne (S := S) (i := i) (by omega) hj
  refine .inl ⟨by rw [length_flipBit]; omega, ?_⟩
  obtain rfl | rfl : i = 0 ∨ i = 1 := by omega
  · exact .inl (h0 ▸ hne)
  · exact .inr (h1 ▸ hne)

theorem CompleteFrame.flipBit {S : Span} {L i : Nat} (h : CompleteFrame S L) (hi : 3 ≤ i) (j : Nat) :
    CompleteFrame (flipBit S i j) L := by
  unfold CompleteFrame
  rwa [getD_flipBit_of_ne S j (by omega), getD_flipBit_of_ne S j (by omega), getD_flipBit_of_ne S j (by omega),
    length_flipBit]

/-- A complete frame with nothing behind it is the wire bytes of its fields. -/
theorem CompleteFrame.exists_eq_frameBytes {S : Span} {L : Nat} (h : CompleteFrame S L) (hlen : S.length = L + 5) :
    ∃ t f, S = frameBytes t f ∧ f.wf = true ∧ f.len.toNat = L := by
  obtain ⟨f, R, hS, hf, rfl⟩ := h.exists_frameBytes
  obtain rfl : R = [] := by simpa [hlen, length_frameBytes _ hf] using congrArg List.length hS
  exact ⟨_, f, hS.trans (List.append_nil _), hf, rfl⟩

/-- Settles O40: a flipped header bit spoils the sync pattern; any other leaves a complete frame of the same length, and
two frames that differ in one bit do not both carry their CRC. -/
theorem oneFlippedBitOutsideTheLengthByteIsDetected : Obligations.OneFlippedBitOutsideTheLengthByteIsDetected := by
  intro prof S F i j h hok hi hj
  obtain ⟨t, f, R, hS, hf, rfl, hlen⟩ := exists_frameBytes_of_decodeSpan_eq_ok h
  obtain rfl : R = [] := by simpa [hlen] using congrArg List.length hS
  obtain rfl : S = frameBytes t f := hS.trans (List.append_nil _)
  have hframe : CompleteFrame (frameBytes t f) f.len.toNat := by simpa using completeFrame_frameBytes_append t hf []
  refine ⟨fun hi2 => decodeSpan_eq_invalidHeader_iff.mpr (badHeader_flipBit hframe hi2 hj), fun hi3 => ?_⟩
  have hlen' := length_flipBit (frameBytes t f) i j
  obtain ⟨t', f', hflip, hf', -⟩ :=
    (hframe.flipBit hi3 j).exists_eq_frameBytes (hlen'.trans (length_frameBytes t hf))
  refine ⟨parsedFrame t' f', ?_, crcOk_eq_false_of_flipBit hok (by omega) hi hj hflip⟩
  rw [← hlen', hflip]
  exact decodeSpan_frameBytes prof t' hf'

end Sys2Proof.Machine

/-! PROOFS. The run of a byte stream through the decoder (43_reassembler R162): it exists and is unique, it continues
over appended bytes, and the decode loop computes it within its bound (R166). -/

namespace Sys2Proof.Machine

/-! ### Runs -/

theorem length_pos_of_decodeSpan_eq_invalidHeader {prof : Profile} {B : Span}
    (h : decodeSpan prof B = .ok .invalidHeader) : 0 < B.length := by
  have hbad := decodeSpan_eq_invalidHeader_iff.mp h
  unfold BadHeader at hbad
  omega

/-- DECODE never consumes more than the span (42_decoder R138). -/
theorem decodeSpan_consumed_le {prof : Profile} {B : Span} {F : ParsedFrame} {c : Nat}
    (h : decodeSpan prof B = .ok (.ok F c)) : c ≤ B.length := by
  obtain ⟨t, f, R, rfl, -, -, rfl⟩ := exists_frameBytes_of_decodeSpan_eq_ok h
  simp

namespace Stream
variable {prof : Profile} {B R : Span} {fs : List ParsedFrame}

theorem rest_suffix (h : Stream prof B fs R) : R <:+ B := by
  induction h with
  | stop _ => exact List.suffix_refl _
  | skip _ _ ih => exact ih.trans (List.drop_suffix _ _)
  | emit _ _ ih => exact ih.trans (List.drop_suffix _ _)

theorem rest_incomplete (h : Stream prof B fs R) : decodeSpan prof R = .ok .incomplete := by
  induction h with
  | stop hB => exact hB
  | skip _ _ ih => exact ih
  | emit _ _ ih => exact ih

/-- DECODE answers each span in one way, so the runs take the same step at each of their spans. -/
theorem unique {R' : Span} {fs' : List ParsedFrame} (h : Stream prof B fs R) (h' : Stream prof B fs' R') :
    fs = fs' ∧ R = R' := by
  induction h generalizing fs' R' with
  | stop hB =>
    cases h' with
    | stop _ => exact ⟨rfl, rfl⟩
    | skip hB' _ => cases hB.symm.trans hB'
    | emit hB' _ => cases hB.symm.trans hB'
  | skip hB _ ih =>
    cases h' with
    | stop hB' => cases hB.symm.trans hB'
    | skip _ hrest => exact ih hrest
    | emit hB' _ => cases hB.symm.trans hB'
  | emit hB _ ih =>
    cases h' with
    | stop hB' => cases hB.symm.trans hB'
    | skip hB' _ => cases hB.symm.trans hB'
    | emit hB' hrest =>
      cases hB.symm.trans hB'
      obtain ⟨rfl, rfl⟩ := ih hrest
      exact ⟨rfl, rfl⟩

/-- More bytes change no step that was decided (42_decoder R138), so a run over more bytes goes on from the old rest. -/
theorem append {T R' : Span} {gs : List ParsedFrame} (h : Stream prof B fs R) (h' : Stream prof (R ++ T) gs R') :
    Stream prof (B ++ T) (fs ++ gs) R' := by
  induction h with
  | stop _ => exact h'
  | @skip B R fs hB _ ih =>
    obtain ⟨-, hskip, -⟩ := decodeReadsOnlyThePrefixItNeeds prof B T
    refine .skip (hskip hB).2 ?_
    rw [List.drop_append_of_le_length (length_pos_of_decodeSpan_eq_invalidHeader hB)]
    exact ih h'
  | @emit B R F c fs hB _ ih =>
    obtain ⟨hemit, -⟩ := decodeReadsOnlyThePrefixItNeeds prof B T
    obtain ⟨hc, -, hok⟩ := hemit F c hB
    refine .emit hok ?_
    rw [List.drop_append_of_le_length hc]
    exact ih h'

/-- A run passes over n bytes in n bad-header steps. -/
theorem of_skips {n : Nat} (hskip : ∀ i, i < n → decodeSpan prof (B.drop i) = .ok .invalidHeader)
    (h : Stream prof (B.drop n) fs R) : Stream prof B fs R := by
  induction n with
  | zero => exact h
  | succ n ih =>
    refine ih (fun i hi => hskip i (by omega)) (.skip (hskip n n.lt_succ_self) ?_)
    rwa [List.drop_drop]

end Stream

/-! ### The decode loop -/

/-- With fuel past the end of the buffer the decode loop runs the stream behind its cursor, and it stays within the
buffer (43_reassembler R162, R166). -/
theorem stream_of_decodeLoop {prof : Profile} {B : Span} {fuel cur cur' : Nat} {fs fs' : List ParsedFrame}
    (hcur : cur ≤ B.length) (hfuel : B.length < cur + fuel)
    (h : decodeLoop prof B fuel cur fs = .ok (cur', fs')) :
    cur' ≤ B.length ∧ ∃ gs, fs' = fs ++ gs ∧ Stream prof (B.drop cur) gs (B.drop cur') := by
  induction fuel generalizing cur fs with
  | zero => omega
  | succ fuel ih =>
    obtain ⟨hstop, rfl, rfl⟩ | ⟨hskip, hrest⟩ | ⟨F, c, hemit, hrest⟩ := decodeLoop_succ_cases h
    · exact ⟨hcur, [], (List.append_nil _).symm, .stop hstop⟩
    · have hpos := length_pos_of_decodeSpan_eq_invalidHeader hskip
      rw [List.length_drop] at hpos
      obtain ⟨hle, gs, rfl, hrun⟩ := ih (by omega) (by omega) hrest
      rw [← List.drop_drop] at hrun
      exact ⟨hle, gs, rfl, .skip hskip hrun⟩
    · have hpos := decodeSpan_consumed_pos hemit
      have hc := decodeSpan_consumed_le hemit
      rw [List.length_drop] at hc
      obtain ⟨hle, gs, rfl, hrun⟩ := ih (by omega) (by omega) hrest
      rw [← List.drop_drop] at hrun
      exact ⟨hle, F :: gs, by simp, .emit hemit hrun⟩

/-- From the start of the buffer: a decode loop with fuel for R166's bound gives a run of the whole buffer. -/
theorem exists_decodeLoop_eq_ok_and_stream (prof : Profile) (B : Span) {fuel : Nat} (hfuel : B.length + 1 ≤ fuel) :
    ∃ cur fs, decodeLoop prof B fuel 0 [] = .ok (cur, fs) ∧ cur ≤ B.length ∧ Stream prof B fs (B.drop cur) := by
  obtain ⟨cur, fs, hloop⟩ := exists_decodeLoop_eq_ok prof B fuel 0 []
  obtain ⟨hcur, gs, hgs, hrun⟩ := stream_of_decodeLoop (Nat.zero_le _) (by omega) hloop
  rw [List.nil_append] at hgs
  exact ⟨cur, fs, hloop, hcur, hgs ▸ hrun⟩

theorem exists_stream (prof : Profile) (B : Span) : ∃ fs R, Stream prof B fs R := by
  obtain ⟨cur, fs, -, -, hrun⟩ := exists_decodeLoop_eq_ok_and_stream prof B le_rfl
  exact ⟨fs, B.drop cur, hrun⟩

/-- Settles O44: the decode loop finds a run, and DECODE's answers determine it. -/
theorem streamRunIsUnique : Obligations.StreamRunIsUnique := by
  refine ⟨exists_stream, fun prof B R R' fs fs' h h' => ?_⟩
  obtain ⟨hfs, hR⟩ := h.unique h'
  exact ⟨hfs, hR, h.rest_suffix, h.rest_incomplete⟩

/-- Settles O45: whatever the fuel, the loop gives a run of the buffer, there is one run only, and the length of its
rest gives the cursor. -/
theorem decodeLoopEndsWithinItsBound : Obligations.DecodeLoopEndsWithinItsBound := by
  intro prof B
  obtain ⟨cur, fs, -, hcur, hrun⟩ := exists_decodeLoop_eq_ok_and_stream prof B le_rfl
  refine ⟨cur, fs, hcur, hrun.rest_incomplete, fun fuel hfuel => ?_⟩
  obtain ⟨cur', fs', hloop, hcur', hrun'⟩ := exists_decodeLoop_eq_ok_and_stream prof B hfuel
  obtain ⟨rfl, hrest⟩ := hrun.unique hrun'
  have hlen := congrArg List.length hrest
  simp only [List.length_drop] at hlen
  obtain rfl : cur = cur' := by omega
  exact hloop

end Sys2Proof.Machine

/-! PROOFS. The command FEED (43_reassembler R160 to R170): its answer on a dead instance, on overflow, and on a
live one, where the run of the held bytes and the chunk decides it. -/

namespace Sys2Proof.Machine

/-! ### One FEED -/

/-- A live instance of 10_state R35: it holds exactly the bytes H. -/
def Instance.live (prof : Profile) (H : Span) : Instance :=
  { profile := prof, buf := Memory.ofSpan H, len := H.length, dead := false }

theorem Instance.holds_live (prof : Profile) (H : Span) : (Instance.live prof H).Holds H := ⟨rfl, rfl⟩

theorem Instance.Holds.eq_live {inst : Instance} {H : Span} (hH : inst.Holds H) (hlive : inst.dead = false) :
    inst = .live inst.profile H := by
  cases inst
  obtain ⟨rfl, rfl⟩ := hH
  cases hlive
  rfl

/-- An instance that meets 10_state R35 and is not dead is live, with bytes that decode INCOMPLETE. -/
theorem Instance.Inv.exists_eq_live {cap : Nat} {inst : Instance} (hinv : inst.Inv cap) (hlive : inst.dead = false) :
    ∃ H, inst = .live inst.profile H ∧ decodeSpan inst.profile H = .ok .incomplete := by
  obtain ⟨H, hH, -, hstop⟩ := hinv.held
  exact ⟨H, hH.eq_live hlive, hstop hlive⟩

section feed
variable {s : State} {k : Nat} {inst : Instance} (hk : s.insts[k]? = some inst)
include hk

theorem getElem?_insts_set_self (inst' : Instance) : (s.insts.set k inst')[k]? = some inst' :=
  List.getElem?_set_self (List.getElem?_eq_some_iff.mp hk).1

/-- Putting back what is there. -/
theorem insts_set_eq_self : s.insts.set k inst = s.insts := by
  obtain ⟨hlt, rfl⟩ := List.getElem?_eq_some_iff.mp hk
  exact List.set_getElem_self hlt

theorem onlyInst_eq_onlyReply (r : Reply) : onlyInst s k inst r = onlyReply s r := by
  rw [onlyInst, insts_set_eq_self hk, onlyReply]

theorem exec_feed_of_feedInst {S : Span} {inst' : Instance} {r : Reply}
    (h : feedInst s.params.cap inst S = .ok (inst', r)) : exec (.feed k S) s = onlyInst s k inst' r := by
  simp only [exec, execFeed, onInst_some hk, h]
  rfl

end feed

theorem feedInst_of_dead {inst : Instance} (hdead : inst.dead = true) (cap : Nat) (S : Span) :
    feedInst cap inst S = .ok (inst, overflowReply) := by
  obtain ⟨-, h⟩ | ⟨hlive, -⟩ | ⟨hlive, -⟩ := feedInst_cases cap inst S
  · exact h
  · cases hlive.symm.trans hdead
  · cases hlive.symm.trans hdead

theorem feedInst_of_overflow {cap : Nat} {inst : Instance} {S : Span} (hlive : inst.dead = false)
    (hcap : cap < inst.len + S.length) :
    feedInst cap inst S = .ok ({ inst with buf := [], len := 0, dead := true }, overflowReply) := by
  obtain ⟨hdead, -⟩ | ⟨-, -, h⟩ | ⟨-, hfit, -⟩ := feedInst_cases cap inst S
  · cases hlive.symm.trans hdead
  · exact h
  · omega

/-- A chunk that fits a live instance: the run of the held bytes and the chunk gives the frames, and its rest is what
the instance holds (43_reassembler R162, R164). -/
theorem feedInst_live_of_stream {cap : Nat} {prof : Profile} {H S R : Span} {fs : List ParsedFrame}
    (hcap : H.length + S.length ≤ cap) (hrun : Stream prof (H ++ S) fs R) :
    feedInst cap (.live prof H) S = .ok (.live prof R, okFrames fs) := by
  obtain ⟨hdead, -⟩ | ⟨-, hover, -⟩ | ⟨-, -, hfeed⟩ := feedInst_cases cap (.live prof H) S
  · cases hdead
  · exact absurd hcap (Nat.not_le_of_lt hover)
  · obtain ⟨cur, gs, hloop, hlive⟩ := feedLive_of_holds (Instance.holds_live prof H) S
    obtain ⟨cur', gs', hloop', -, hrun'⟩ := exists_decodeLoop_eq_ok_and_stream prof (H ++ S) le_rfl
    cases hloop.symm.trans hloop'
    obtain ⟨rfl, rfl⟩ := hrun.unique hrun'
    rw [hfeed, hlive, ← List.length_drop]
    rfl

theorem exec_feed_live_of_stream {s : State} {k : Nat} {prof : Profile} {H S R : Span} {fs : List ParsedFrame}
    (hk : s.insts[k]? = some (.live prof H)) (hcap : H.length + S.length ≤ s.params.cap)
    (hrun : Stream prof (H ++ S) fs R) : exec (.feed k S) s = onlyInst s k (.live prof R) (okFrames fs) :=
  exec_feed_of_feedInst hk (feedInst_live_of_stream hcap hrun)

/-- Settles O42: the overflow case of FEED. -/
theorem overflowDropsTheBufferAndSetsDead : Obligations.OverflowDropsTheBufferAndSetsDead :=
  fun _ _ _ _ hk hlive hcap => exec_feed_of_feedInst hk (feedInst_of_overflow hlive hcap)

/-- Settles O41: the dead case of FEED puts the instance back, and no other effect but a RESET reaches it. -/
theorem deadInstanceStaysDeadUntilReset : Obligations.DeadInstanceStaysDeadUntilReset := by
  refine ⟨fun k S s inst hk hdead => ?_, fun i k s t inst hk hdead hreset h => ?_⟩
  · exact (exec_feed_of_feedInst hk (feedInst_of_dead hdead _ S)).trans (onlyInst_eq_onlyReply hk _)
  · have heff := effect_of_exec_eq_next h
    obtain ⟨hlt, -⟩ := List.getElem?_eq_some_iff.mp hk
    have hk' := List.getElem?_eq_getElem (heff.length_insts_eq.symm ▸ hlt)
    obtain heq | ⟨S, r, -, hfeed⟩ | ⟨prof, hi, -⟩ := heff.inst_cases hk hk'
    · rw [hk', ← heq]
    · cases (feedInst_of_dead hdead _ S).symm.trans hfeed
      exact hk'
    · exact absurd hi (hreset prof)

/-- Settles O43: the run of H ++ S exists, and FEED answers it. -/
theorem feedRunsTheStreamToItsFixedPoint : Obligations.FeedRunsTheStreamToItsFixedPoint := by
  intro k S H s inst hk hlive hH hcap
  obtain ⟨fs, R, hrun⟩ := exists_stream inst.profile (H ++ S)
  rw [hH.eq_live hlive] at hk
  exact ⟨fs, R, hrun, exec_feed_live_of_stream hk hcap hrun⟩

/-- Settles O48: the held bytes decode INCOMPLETE, so the run stops at once and FEED puts them back. -/
theorem zeroLengthFeedChangesNothing : Obligations.ZeroLengthFeedChangesNothing := by
  intro k s inst hinv hk hlive
  have hinst := hinv.insts_inv inst (List.mem_of_getElem? hk)
  obtain ⟨H, heq, hstop⟩ := hinst.exists_eq_live hlive
  have hcap := hinst.len_le_cap
  rw [heq] at hk hcap
  have hrun : Stream inst.profile (H ++ []) [] H := by
    rw [List.append_nil]
    exact .stop hstop
  exact (exec_feed_live_of_stream (S := []) hk hcap hrun).trans (onlyInst_eq_onlyReply hk _)

/-! ### FEEDs in a row -/

/-- A list of FEEDs that all return OK begins with one that does. -/
theorem runFeeds_cons_eq_some {k : Nat} {s t : State} {S : Span} {Ss : List Span} {fs : List ParsedFrame}
    (h : runFeeds k s (S :: Ss) = some (t, fs)) :
    ∃ u r gs, exec (.feed k S) s = .next u ∧ u.reply = some r ∧ r.status = .ok ∧
      runFeeds k u Ss = some (t, gs) ∧ fs = r.frames ++ gs := by
  rw [runFeeds] at h
  split at h
  next u hu =>
    split at h
    next r hr =>
      split_ifs at h with hok
      obtain ⟨⟨t', gs⟩, hrest, heq⟩ := Option.map_eq_some_iff.mp h
      cases heq
      exact ⟨u, r, gs, hu, hr, hok, hrest, rfl⟩
    next => cases h
  next => cases h
  next => cases h

/-- A FEED of a live instance that returns OK did not overflow. -/
theorem fits_of_feed_ok {s t : State} {k : Nat} {prof : Profile} {H S : Span} {r : Reply}
    (hk : s.insts[k]? = some (.live prof H)) (h : exec (.feed k S) s = .next t) (hr : t.reply = some r)
    (hok : r.status = .ok) : H.length + S.length ≤ s.params.cap := by
  by_contra hcap
  cases h.symm.trans (exec_feed_of_feedInst hk (feedInst_of_overflow rfl (Nat.lt_of_not_le hcap)))
  cases hr
  cases hok

/-- FEEDs that all return OK, however the bytes are cut, emit the frames of the run of the held bytes and all chunks,
and leave its rest (43_reassembler R167). -/
theorem stream_of_runFeeds {s t : State} {k : Nat} {prof : Profile} {H : Span} {Ss : List Span}
    {fs : List ParsedFrame} (hk : s.insts[k]? = some (.live prof H)) (hH : decodeSpan prof H = .ok .incomplete)
    (h : runFeeds k s Ss = some (t, fs)) :
    ∃ R, Stream prof (H ++ Ss.flatten) fs R ∧ t.insts = s.insts.set k (.live prof R) := by
  induction Ss generalizing s H fs with
  | nil =>
    cases h
    exact ⟨H, by simpa using Stream.stop hH, (insts_set_eq_self hk).symm⟩
  | cons S Ss ih =>
    obtain ⟨u, r, gs, hfeed, hr, hok, hrest, rfl⟩ := runFeeds_cons_eq_some h
    obtain ⟨fs, R, hrun⟩ := exists_stream prof (H ++ S)
    cases hfeed.symm.trans (exec_feed_live_of_stream hk (fits_of_feed_ok hk hfeed hr hok) hrun)
    cases hr
    obtain ⟨R', hrun', hinsts⟩ := ih (getElem?_insts_set_self hk _) hrun.rest_incomplete hrest
    refine ⟨R', ?_, hinsts.trans (List.set_set _)⟩
    rw [List.flatten_cons, ← List.append_assoc]
    exact hrun.append hrun'

/-- Settles O46: both cuttings give the run of the held bytes and the one stream, and there is one run only. -/
theorem chunkingDoesNotMatter : Obligations.ChunkingDoesNotMatter := by
  intro k s t u inst Ss Ts fs gs hinv hk hlive hflat hS hT
  obtain ⟨H, heq, hstop⟩ := (hinv.insts_inv inst (List.mem_of_getElem? hk)).exists_eq_live hlive
  rw [heq] at hk
  obtain ⟨R, hrun, ht⟩ := stream_of_runFeeds hk hstop hS
  obtain ⟨R', hrun', hu⟩ := stream_of_runFeeds hk hstop hT
  rw [← hflat] at hrun'
  obtain ⟨hfs, rfl⟩ := hrun.unique hrun'
  exact ⟨hfs, ht.trans hu.symm⟩

/-! ### Garbage and false headers -/

/-- Bytes without the pair AA 55 before a span that begins with AA: DECODE finds a bad header at each of them, the last
one included (43_reassembler R168). -/
theorem badHeader_drop_garbage {G W : Span} (hW : 0 < W.length) (hW0 : W.getD 0 0#8 = 0xAA#8)
    (hG : ∀ i, i + 1 < G.length → ¬(G.getD i 0#8 = 0xAA#8 ∧ G.getD (i + 1) 0#8 = 0x55#8)) {i : Nat}
    (hi : i < G.length) : BadHeader ((G ++ W).drop i) := by
  refine .inl ⟨by rw [List.length_drop, List.length_append]; omega, ?_⟩
  have hget (j : Nat) : ((G ++ W).drop i).getD j 0#8 = (G ++ W).getD (i + j) 0#8 := by simp
  rw [hget, hget, Nat.add_zero, ← not_and_or, List.getD_append _ _ _ _ hi]
  obtain hlt | hlast : i + 1 < G.length ∨ i + 1 = G.length := by omega
  · rw [List.getD_append _ _ _ _ hlt]
    exact hG i hlt
  · rw [List.getD_append_right _ _ _ _ hlast.ge, hlast, Nat.sub_self, hW0]
    rintro ⟨-, h55⟩
    exact absurd h55 (by decide)

/-- Settles O47: the run skips each garbage byte, emits the frame, and nothing is left, as in the fresh instance. -/
theorem garbageBeforeAFrameIsSkipped : Obligations.GarbageBeforeAFrameIsSkipped := by
  intro k prof s G W F hk hW hG hcap
  have hskip (i : Nat) (hi : i < G.length) : decodeSpan prof ((G ++ W).drop i) = .ok .invalidHeader := by
    obtain ⟨t, f, R, hS, hf, -⟩ := exists_frameBytes_of_decodeSpan_eq_ok hW
    obtain ⟨hW0, -⟩ := hS ▸ completeFrame_frameBytes_append t hf R
    exact decodeSpan_eq_invalidHeader_iff.mpr (badHeader_drop_garbage (decodeSpan_consumed_pos hW) hW0 hG hi)
  refine ⟨hskip, ?_⟩
  have hframe : Stream prof W [F] [] := by
    refine .emit hW ?_
    rw [List.drop_length]
    exact .stop (decodeSpan_short prof Nat.two_pos)
  have hrun : Stream prof (G ++ W) [F] [] := .of_skips hskip (by rwa [List.drop_left])
  have hfresh : Instance.fresh prof = .live prof [] := rfl
  have hcap' : ([] : Span).length + (G ++ W).length ≤ s.params.cap := by simpa using hcap
  rw [hfresh] at hk
  exact (exec_feed_live_of_stream hk hcap' hrun).trans (onlyInst_eq_onlyReply hk _)

theorem CompleteFrame.exists_decodeSpan_eq_ok {B : Span} {L : Nat} (h : CompleteFrame B L) (prof : Profile) :
    ∃ F, decodeSpan prof B = .ok (.ok F (L + 5)) := by
  obtain ⟨f, R, hB, hf, rfl⟩ := h.exists_frameBytes
  rw [hB, ← length_frameBytes _ hf]
  exact ⟨_, decodeSpan_frameBytes_append prof _ hf R⟩

/-- Settles O49: below L + 5 bytes the run stops at once; from there its first step emits the frame that takes them. -/
theorem aHeaderHoldsBackWhatFollowsIt : Obligations.AHeaderHoldsBackWhatFollowsIt := by
  intro k S H s t inst hk hlive hH hcap hlen h0 h1 hL hfeed
  rw [hH.eq_live hlive] at hk
  have hanswer {fs R} (hrun : Stream inst.profile (H ++ S) fs R) :
      t.reply = some (okFrames fs) ∧ t.insts[k]? = some (.live inst.profile R) := by
    cases hfeed.symm.trans (exec_feed_live_of_stream hk hcap hrun)
    exact ⟨rfl, getElem?_insts_set_self hk _⟩
  refine ⟨fun hshort => ?_, fun hwhole => ?_⟩
  · have hpartial : TooShort (H ++ S) := .inr (.inr ⟨h0, h1, hlen, hL, hshort⟩)
    obtain ⟨hreply, hinst⟩ := hanswer (.stop (decodeSpan_eq_incomplete_iff.mpr hpartial))
    exact ⟨hreply, _, hinst, Instance.holds_live _ _⟩
  · have hframe : CompleteFrame (H ++ S) ((H ++ S).getD 2 0#8).toNat := ⟨h0, h1, rfl, hL, hwhole⟩
    obtain ⟨F, hF⟩ := hframe.exists_decodeSpan_eq_ok inst.profile
    obtain ⟨fs, R, hrun⟩ := exists_stream inst.profile ((H ++ S).drop (((H ++ S).getD 2 0#8).toNat + 5))
    obtain ⟨hreply, hinst⟩ := hanswer (.emit hF hrun)
    exact ⟨F, fs, R, _, hF, hrun, hreply, hinst, Instance.holds_live _ _⟩

end Sys2Proof.Machine

/-! PROOFS. Instance control: RESET and RDSTAT run on an existing instance, and the status word by value
(44_control R180, R182; 10_state R33). -/

namespace Sys2Proof.Machine

section control
variable {s : State} {k : Nat} {inst : Instance} (hk : s.insts[k]? = some inst)
include hk

theorem exec_reset_of_getElem? (prof : Profile) :
    exec (.reset k prof) s = onlyInst s k (Instance.fresh prof) (statusOnly .ok) :=
  onInst_some hk _

theorem exec_rdstat_of_getElem? :
    exec (.rdstat k) s = onlyReply s { status := .ok, results := .stat (statWord inst) } :=
  onInst_some hk _

end control

/-- Settles O52: an instance that exists is replaced by the fresh one of the operand's profile. -/
theorem resetLeavesAnEmptyLiveInstance : Obligations.ResetLeavesAnEmptyLiveInstance :=
  fun _ prof _ hk => exec_reset_of_getElem? (List.getElem?_eq_getElem hk) prof

theorem toNat_deadBit_shiftLeft (d : Bool) : (deadBit d <<< 16).toNat = (if d then 1 else 0) <<< 16 := by
  cases d <;> rfl

theorem toNat_profileBit_shiftLeft (prof : Profile) :
    (profileBit prof <<< 17).toNat = (if prof = .B then 1 else 0) <<< 17 := by
  cases prof <;> rfl

/-- The three fields of the status word do not overlap, so their OR is their sum: LEN is below bit 16, and LEN with
DEAD is below bit 17. -/
theorem toNat_statWord (inst : Instance) :
    (statWord inst).toNat = inst.len % 2 ^ 16 + 2 ^ 16 * (if inst.dead then 1 else 0) +
      2 ^ 17 * (if inst.profile = .B then 1 else 0) := by
  have hlen : inst.len % 2 ^ 16 < 2 ^ 16 := Nat.mod_lt _ (by decide)
  have hlenDead : inst.len % 2 ^ 16 + 2 ^ 16 * (if inst.dead then 1 else 0) < 2 ^ 17 := by split <;> omega
  rw [statWord, BitVec.toNat_or, BitVec.toNat_or, toNat_deadBit_shiftLeft, toNat_profileBit_shiftLeft,
    BitVec.toNat_setWidth_of_le (by decide), BitVec.toNat_ofNat, or_shift_eq_add _ _ 16 hlen,
    or_shift_eq_add _ _ 17 hlenDead]

/-- Settles O53: RDSTAT answers the status word of the instance, and the instances do not depend on the last reply. -/
theorem rdstatReadsTheStatusWord : Obligations.RdstatReadsTheStatusWord :=
  ⟨fun _ => rfl, fun _ s inst hk =>
    ⟨statWord inst, fun q => exec_rdstat_of_getElem? (s := { s with reply := q }) hk, toNat_statWord inst⟩⟩

end Sys2Proof.Machine

/-! PROOFS. Under the invariant every admitted request of an existing instance, or of none, completes (60_exceptions
R215). -/

namespace Sys2Proof.Machine

theorem lt_of_inRange {i : Instr} {n k : Nat} (h : i.inRange n = true) (hk : i.namedInst = some k) : k < n := by
  simpa [Instr.inRange, hk] using h

/-- Under the invariant an instruction that names an existing instance or none completes. -/
theorem exec_completes_of_inRange {s : State} (hinv : s.Inv) {i : Instr} (hi : i.inRange s.params.numInst = true) :
    Completes s (exec i s) := by
  obtain h | ⟨k, hk, hnone, -⟩ := exec_completes_or_refuses hinv.insts_inv i
  · exact h
  · have hlt := lt_of_inRange hi hk
    have hge := List.getElem?_eq_none_iff.mp hnone
    rw [hinv.insts_length] at hge
    omega

/-- Settles O15: a short span is answered INCOMPLETE, and an admitted instruction in range completes. -/
theorem everyAdmissibleRequestCompletes : Obligations.EveryAdmissibleRequestCompletes := by
  intro s iss rest hinv hp hadm
  cases hd : decode iss.request with
  | error r =>
    cases r with
    | incomplete => exact ⟨_, _, step_of_decode_error hp hd, rfl, rfl⟩
    | readOutsideSpan => exact absurd hd (decode_ne_readOutsideSpan iss.request)
  | ok i =>
    obtain ⟨hissue, hrange⟩ := hadm i hd
    rw [step_of_admitted hp hd hissue]
    exact exec_completes_of_inRange (hinv.withPending rest) hrange

end Sys2Proof.Machine

/-! PROOFS. DECODE tests its causes in order (60_exceptions R205), and crc_ok on the raw span (42_decoder R131). -/

namespace Sys2Proof.Machine

/-- The body of a complete frame, from its length byte to its payload (42_decoder R131). -/
theorem take_drop_two_frameBytes_append (t : Byte) {f : FrameFields} (hf : f.wf = true) (R : Span) :
    ((frameBytes t f ++ R).drop 2).take (f.len.toNat + 1) = [f.len, t] ++ f.payload := by
  simp [frameBytes, len_toNat_of_wf hf]

/-- The received CRC of a complete frame stands behind its payload, low byte first (42_decoder R131). -/
theorem rxCrc_toNat_eq_getD (t : Byte) {f : FrameFields} (hf : f.wf = true) (R : Span) :
    f.rxCrc.toNat = ((frameBytes t f ++ R).getD (3 + f.len.toNat) 0#8).toNat +
      256 * ((frameBytes t f ++ R).getD (4 + f.len.toNat) 0#8).toNat := by
  have hlo : (frameBytes t f ++ R).getD (3 + f.len.toNat) 0#8 = f.rxCrc.extractLsb' 0 8 := by
    rw [len_toNat_of_wf hf, show 3 + (f.payload.length + 1) = f.payload.length + 4 by omega]
    simp [frameBytes, bytesLE16]
  have hhi : (frameBytes t f ++ R).getD (4 + f.len.toNat) 0#8 = f.rxCrc.extractLsb' 8 8 := by
    rw [len_toNat_of_wf hf, show 4 + (f.payload.length + 1) = f.payload.length + 5 by omega]
    simp [frameBytes, bytesLE16]
  rw [hlo, hhi, ← le16_toNat, le16_bytes]

/-- crc_ok on the raw span (42_decoder R131). -/
theorem crcOk_eq_decide (t : Byte) {f : FrameFields} (hf : f.wf = true) (R : Span) :
    crcOk t f = decide ((crc16 (((frameBytes t f ++ R).drop 2).take (f.len.toNat + 1))).toNat =
      ((frameBytes t f ++ R).getD (3 + f.len.toNat) 0#8).toNat +
        256 * ((frameBytes t f ++ R).getD (4 + f.len.toNat) 0#8).toNat) := by
  rw [← rxCrc_toNat_eq_getD t hf, take_drop_two_frameBytes_append t hf, crcOk, Bool.eq_iff_iff, beq_iff_eq,
    decide_eq_true_iff, BitVec.toNat_inj]

/-- DECODE of a complete frame, with crc_ok on the raw span (42_decoder R130, R131). -/
theorem CompleteFrame.exists_reply {S : Span} {L : Nat} (h : CompleteFrame S L) {prof : Profile} {r : DecodeResult}
    (hr : decodeSpan prof S = .ok r) :
    ∃ p : Payload, r.reply = okDecoded (S.getD 3 0#8)
      (decide ((crc16 ((S.drop 2).take (L + 1))).toNat =
        (S.getD (3 + L) 0#8).toNat + 256 * (S.getD (4 + L) 0#8).toNat)) p (L + 5) := by
  obtain ⟨f, R, hS, hf, rfl⟩ := h.exists_frameBytes
  generalize S.getD 3 0#8 = t at hS ⊢
  subst hS
  cases hr.symm.trans (decodeSpan_frameBytes_append prof t hf R)
  refine ⟨parsePayload t f.payload, ?_⟩
  rw [← crcOk_eq_decide t hf, length_frameBytes t hf]
  rfl

theorem TooShort.reply_eq {S : Span} (h : TooShort S) {prof : Profile} {r : DecodeResult}
    (hr : decodeSpan prof S = .ok r) : r.reply = statusOnly .incomplete := by
  cases hr.symm.trans (decodeSpan_eq_incomplete_iff.mpr h)
  rfl

theorem BadHeader.reply_eq {S : Span} (h : BadHeader S) {prof : Profile} {r : DecodeResult}
    (hr : decodeSpan prof S = .ok r) : r.reply = statusOnly .invalidHeader := by
  cases hr.symm.trans (decodeSpan_eq_invalidHeader_iff.mpr h)
  rfl

/-- Settles O31: each cause is a way to be too short or to have a bad header, and a complete frame is neither. -/
theorem decodeTestsItsCausesInOrder : Obligations.DecodeTestsItsCausesInOrder := by
  intro prof S s
  obtain ⟨r, hr⟩ := exists_decodeSpan_eq_ok prof S
  refine ⟨r.reply, exec_decode_of_decodeSpan hr s, fun hlen => ?_, fun hlen hsync => ?_, fun hlen h0 h1 => ?_,
    fun hlen h0 h1 h2 => ?_, fun hlen h0 h1 h2 hpart => ?_, fun L h => h.exists_reply hr⟩
  · exact TooShort.reply_eq (.inl hlen) hr
  · exact BadHeader.reply_eq (.inl ⟨hlen, hsync⟩) hr
  · exact TooShort.reply_eq (.inr (.inl ⟨h0, h1, by omega⟩)) hr
  · exact BadHeader.reply_eq (.inr ⟨hlen, h0, h1, h2⟩) hr
  · have hpos : 1 ≤ (S.getD 2 0#8).toNat := Nat.one_le_iff_ne_zero.mpr fun hz => h2 (BitVec.eq_of_toNat_eq hz)
    exact TooShort.reply_eq (.inr (.inr ⟨h0, h1, hlen, hpos, hpart⟩)) hr

end Sys2Proof.Machine

/-! PROOFS. A status other than OK: which ones a command returns (60_exceptions R200), in what order an encode finds
them (R206), and what a failure changes (R204, 41_encoder R106). -/

namespace Sys2Proof.Machine

/-! ### The replies of each command -/

/-- A reply with a status that 60_exceptions R200 lists for the instruction, and with frames only where it is OK. -/
def ListedReply (i : Instr) (r : Reply) : Prop :=
  r.status ∈ statusesOf i ∧ (r.status ≠ .ok → r.frames = [])

/-- Every next state of the outcome carries a listed reply of the instruction. -/
def AnswersListed (i : Instr) (o : Host.Outcome State Fault Refusal) : Prop :=
  ∀ t, o = .next t → ∃ r, t.reply = some r ∧ ListedReply i r

theorem ListedReply.of_frames_eq_nil {i : Instr} {r : Reply} (hst : r.status ∈ statusesOf i) (hfs : r.frames = []) :
    ListedReply i r :=
  ⟨hst, fun _ => hfs⟩

theorem ListedReply.of_status_eq_ok {i : Instr} {r : Reply} (hmem : .ok ∈ statusesOf i) (hok : r.status = .ok) :
    ListedReply i r :=
  ⟨hok ▸ hmem, fun hne => absurd hok hne⟩

theorem ListedReply.answersListed {i : Instr} {r : Reply} (h : ListedReply i r) (s : State) :
    AnswersListed i (.next (s.answer r)) := by
  rintro _ ⟨⟩
  exact ⟨r, rfl, h⟩

theorem answersListed_answer_of_frames_eq_nil {i : Instr} {r : Reply} (hst : r.status ∈ statusesOf i)
    (hfs : r.frames = []) (s : State) : AnswersListed i (.next (s.answer r)) :=
  (ListedReply.of_frames_eq_nil hst hfs).answersListed s

theorem answersListed_failEncode {i : Instr} {st : Status} (hst : st ∈ statusesOf i) (s : State) (d : Dest) :
    AnswersListed i (.next (s.failEncode d st)) := by
  rintro _ ⟨⟩
  exact ⟨_, rfl, .of_frames_eq_nil hst rfl⟩

/-- emit_frame answers OK or BUFFER_TOO_SMALL (41_encoder R101). -/
theorem answersListed_emitFrame {i : Instr} (hok : .ok ∈ statusesOf i) (hsmall : .bufferTooSmall ∈ statusesOf i)
    (prof : Profile) (t : Byte) (P : Span) (d : Dest) (s : State) : AnswersListed i (emitFrame prof t P d s) := by
  obtain ⟨-, h⟩ | ⟨-, h⟩ := emitFrame_cases prof t P d s <;> rw [h]
  · exact answersListed_failEncode hsmall s d
  · exact answersListed_answer_of_frames_eq_nil hok rfl _

theorem answersListed_encRc (prof : Profile) (input : RcInput) (d : Dest) (s : State) :
    AnswersListed (.encRc prof input d) (exec (.encRc prof input d) s) := by
  obtain ⟨-, h⟩ | ⟨-, -, h⟩ := execEncRc_cases prof input d s <;> rw [h]
  · exact answersListed_failEncode (by simp [statusesOf]) s d
  · exact answersListed_emitFrame (by simp [statusesOf]) (by simp [statusesOf]) prof _ _ d s

theorem answersListed_encExt (prof : Profile) (input : ExtInput) (d : Dest) (s : State) :
    AnswersListed (.encExt prof input d) (exec (.encExt prof input d) s) := by
  obtain ⟨-, h⟩ | ⟨-, h⟩ := execEncExt_cases prof input d s <;> rw [h]
  · exact answersListed_failEncode (by simp [statusesOf]) s d
  · exact answersListed_emitFrame (by simp [statusesOf]) (by simp [statusesOf]) prof _ _ d s

theorem DecodeResult.listedReply_decode (r : DecodeResult) (prof : Profile) (S : Span) :
    ListedReply (.decode prof S) r.reply := by
  cases r with
  | incomplete => exact .of_frames_eq_nil (by simp [statusesOf, reply]) rfl
  | invalidHeader => exact .of_frames_eq_nil (by simp [statusesOf, reply]) rfl
  | ok F c => exact .of_status_eq_ok List.mem_cons_self rfl

/-- A FRAME row answers the one status of its dispatch case (30_encoding R81). -/
theorem listedReply_rowResult (row : FrameRow) : ListedReply row.toInstr (rowResult row).reply := by
  cases row with
  | invalidLen0 => exact .of_frames_eq_nil List.mem_cons_self rfl
  | rc f => exact .of_status_eq_ok List.mem_cons_self rfl
  | tlm f => exact .of_status_eq_ok List.mem_cons_self rfl
  | hb f => exact .of_status_eq_ok List.mem_cons_self rfl
  | ext f => exact .of_status_eq_ok List.mem_cons_self rfl
  | raw t f => exact .of_status_eq_ok List.mem_cons_self rfl
  | badSync b0 b1 => exact .of_frames_eq_nil List.mem_cons_self rfl

/-- FEED on a live instance whose chunk fits answers OK (43_reassembler R160). -/
theorem feedLive_status {inst inst' : Instance} {S : Span} {r : Reply} (h : feedLive inst S = .ok (inst', r)) :
    r.status = .ok := by
  simp only [feedLive] at h
  split at h
  · cases h
  · split at h
    · cases h
    · cases h
      rfl

/-- FEED answers OK, or BUFFER_OVERFLOW with no frame, which leaves the instance as it was unless a live one
overflowed (43_reassembler R161, R165). -/
theorem feedInst_reply_cases {cap : Nat} {inst inst' : Instance} {S : Span} {r : Reply}
    (h : feedInst cap inst S = .ok (inst', r)) :
    r.status = .ok ∨
      (r = overflowReply ∧ (inst' = inst ∨ inst.dead = false ∧ cap < inst.len + S.length)) := by
  obtain ⟨-, hf⟩ | ⟨hlive, hcap, hf⟩ | ⟨-, -, hf⟩ := feedInst_cases cap inst S
  · cases hf.symm.trans h
    exact .inr ⟨rfl, .inl rfl⟩
  · cases hf.symm.trans h
    exact .inr ⟨rfl, .inr ⟨hlive, hcap⟩⟩
  · exact .inl (feedLive_status (hf.symm.trans h))

theorem answersListed_onInst {i : Instr} {s : State} {k : Nat} {f : Instance → Host.Outcome State Fault Refusal}
    (hf : ∀ inst, AnswersListed i (f inst)) : AnswersListed i (s.onInst k f) := by
  obtain ⟨-, h⟩ | ⟨inst, -, h⟩ := onInst_cases s k f
  · simp [AnswersListed, h]
  · exact h ▸ hf inst

theorem answersListed_feed (k : Nat) (S : Span) (s : State) :
    AnswersListed (.feed k S) (exec (.feed k S) s) := by
  refine answersListed_onInst fun inst => ?_
  cases hf : feedInst s.params.cap inst S with
  | error x => simp [AnswersListed]
  | ok p =>
    obtain ⟨inst', r⟩ := p
    refine ListedReply.answersListed ?_ (s.setInst k inst')
    obtain hok | ⟨rfl, -⟩ := feedInst_reply_cases hf
    · exact .of_status_eq_ok List.mem_cons_self hok
    · exact .of_frames_eq_nil (by simp [statusesOf, overflowReply]) rfl

/-- Every command returns one of its own statuses, and a frame only under OK. -/
theorem exec_answersListed (i : Instr) (s : State) : AnswersListed i (exec i s) := by
  cases i with
  | crc16 S => exact answersListed_answer_of_frames_eq_nil List.mem_cons_self rfl s
  | encRc prof input d => exact answersListed_encRc prof input d s
  | encTlm prof input d => exact answersListed_emitFrame (by simp [statusesOf]) (by simp [statusesOf]) prof _ _ d s
  | encHb prof st d => exact answersListed_emitFrame (by simp [statusesOf]) (by simp [statusesOf]) prof _ _ d s
  | encExt prof input d => exact answersListed_encExt prof input d s
  | decode prof S =>
    obtain ⟨r, hr⟩ := exists_decodeSpan_eq_ok prof S
    exact exec_decode_of_decodeSpan hr s ▸ (r.listedReply_decode prof S).answersListed s
  | feed k S => exact answersListed_feed k S s
  | reset k prof =>
    exact answersListed_onInst fun _ => answersListed_answer_of_frames_eq_nil List.mem_cons_self rfl _
  | rdstat k =>
    exact answersListed_onInst fun _ => answersListed_answer_of_frames_eq_nil List.mem_cons_self rfl s
  | illegal op => exact answersListed_answer_of_frames_eq_nil List.mem_cons_self rfl s
  | invalidLen0 => exact (listedReply_rowResult .invalidLen0).answersListed s
  | frameRc f => exact (listedReply_rowResult (.rc f)).answersListed s
  | frameTlm f => exact (listedReply_rowResult (.tlm f)).answersListed s
  | frameHb f => exact (listedReply_rowResult (.hb f)).answersListed s
  | frameExt f => exact (listedReply_rowResult (.ext f)).answersListed s
  | frameRaw t f => exact (listedReply_rowResult (.raw t f)).answersListed s
  | badSync b0 b1 => exact (listedReply_rowResult (.badSync b0 b1)).answersListed s

theorem statusCode_toNat_le (st : Status) : (statusCode st).toNat ≤ 0x06 := by
  cases st <;> decide

/-- Settles O16: every command returns a status of its list, and the seven codes are those of the table. -/
theorem everyCommandReturnsAStatusOfItsList : Obligations.EveryCommandReturnsAStatusOfItsList := by
  refine ⟨fun i s t h => ?_, rfl, rfl, rfl, rfl, rfl, rfl, rfl⟩
  obtain ⟨r, hr, hst, -⟩ := exec_answersListed i s t h
  exact ⟨r, hr, hst, statusCode_toNat_le r.status⟩

/-! ### The effects of a failure -/

/-- An instruction that does not answer OK changes an instance by an overflowing FEED alone. -/
theorem Effect.insts_eq_of_status_ne_ok {i : Instr} {s t : State} (heff : Effect i s t) {r : Reply}
    (hr : t.reply = some r) (hst : r.status ≠ .ok) (hover : ¬ OverflowingFeed i s) : t.insts = s.insts := by
  cases heff with
  | reply r' hfs => rfl
  | emit d F hd hF => rfl
  | fail d st hd => rfl
  | feed k S inst inst' r' hi hk hfeed =>
    obtain rfl : r' = r := Option.some.inj hr
    obtain hok | ⟨-, rfl | ⟨hlive, hcap⟩⟩ := feedInst_reply_cases hfeed
    · exact absurd hok hst
    · exact insts_set_eq_self hk
    · exact absurd ⟨k, S, inst, hi, hk, hlive, hcap⟩ hover
  | reset k prof hi =>
    cases hr
    exact absurd rfl hst

/-- Settles O19: the overflow is a case of FEED, and each part of any other failure is read off its effect. -/
theorem failuresHaveOnlyTheEffectsOfTheirStatus : Obligations.FailuresHaveOnlyTheEffectsOfTheirStatus := by
  refine ⟨fun k S s inst hk hlive hcap => ?_, fun i s t r h hr hst => ?_⟩
  · exact ⟨_, _, overflowDropsTheBufferAndSetsDead k S s inst hk hlive hcap, rfl, rfl, rfl⟩
  · have heff := effect_of_exec_eq_next h
    obtain ⟨r', hr', -, hfs⟩ := exec_answersListed i s t h
    obtain rfl : r' = r := Option.some.inj (hr'.symm.trans hr)
    exact ⟨hfs hst, heff.params_eq, heff.pending_eq, heff.insts_eq_of_status_ne_ok hr hst,
      fun _ => heff.sameOutside, heff.out_draws_eq_of_destOf_eq_none⟩

/-! ### The failures of the encodes -/

theorem failedEncode_failEncode (s : State) (d : Dest) (st : Status) : FailedEncode s (s.failEncode d st) d st :=
  ⟨rfl, sameOutside_of_out_eq_writeSpan (length_freeSpan s.draws d.cap).le rfl⟩

theorem emitFrame_fails {P : Span} {d : Dest} (hcap : d.cap < P.length + 6) (prof : Profile) (t : Byte) (s : State) :
    ∃ w, emitFrame prof t P d s = .next w ∧ FailedEncode s w d .bufferTooSmall := by
  obtain ⟨-, h⟩ | ⟨hfit, -⟩ := emitFrame_cases prof t P d s
  · exact ⟨_, h, failedEncode_failEncode s d _⟩
  · omega

theorem encRc_fails_of_count {r : RcInput} (hn : r.channelCount.toNat = 0 ∨ 9 ≤ r.channelCount.toNat)
    (prof : Profile) (d : Dest) (s : State) :
    ∃ t, exec (.encRc prof r d) s = .next t ∧ FailedEncode s t d .invalidChannelCount := by
  obtain ⟨-, h⟩ | ⟨hpos, hle, -⟩ := execEncRc_cases prof r d s
  · exact ⟨_, h, failedEncode_failEncode s d _⟩
  · omega

theorem encRc_fails_of_cap {r : RcInput} {d : Dest} (hpos : 1 ≤ r.channelCount.toNat)
    (hle : r.channelCount.toNat ≤ 8) (hcap : d.cap < 7 + 2 * r.channelCount.toNat) (prof : Profile) (s : State) :
    ∃ t, exec (.encRc prof r d) s = .next t ∧ FailedEncode s t d .bufferTooSmall := by
  obtain ⟨hbad, -⟩ | ⟨-, -, h⟩ := execEncRc_cases prof r d s
  · omega
  · rw [h]
    exact emitFrame_fails (by rw [length_rcPayload hle]; omega) prof _ s

theorem encExt_fails {r : ExtInput} {d : Dest} (hbad : 32 < r.paramLen.toNat ∨ d.cap < 8 + r.paramLen.toNat)
    (prof : Profile) (s : State) :
    ∃ t, exec (.encExt prof r d) s = .next t ∧ FailedEncode s t d .bufferTooSmall := by
  obtain ⟨-, h⟩ | ⟨hle, h⟩ := execEncExt_cases prof r d s
  · exact ⟨_, h, failedEncode_failEncode s d _⟩
  · rw [h]
    exact emitFrame_fails (by rw [length_extPayload hle]; omega) prof _ s

/-- Settles O28: the payload check comes before emit_frame, which checks the size. -/
theorem encodeFailuresFollowThePriorityOrder : Obligations.EncodeFailuresFollowThePriorityOrder :=
  ⟨fun prof _ d s => ⟨fun hn => encRc_fails_of_count hn prof d s,
      fun hpos hle hcap => encRc_fails_of_cap hpos hle hcap prof s⟩,
    fun prof _ _ s hbad => encExt_fails hbad prof s,
    fun prof r _ s hcap => emitFrame_fails (P := tlmPayload r) hcap prof _ s,
    fun prof st _ s hcap => emitFrame_fails (P := [st]) hcap prof _ s⟩

end Sys2Proof.Machine

/-! PROOFS. Power-on (70_reset_and_hazards R230, R231), the admission of a request by its context (R233, R234), and
chunks that cannot overflow (R236). -/

namespace Sys2Proof.Machine

/-! ### Power-on -/

theorem getElem?_insts_powerOn {p : Params} {k : Nat} (hk : k < p.numInst) :
    (State.powerOn p).insts[k]? = some (Instance.fresh p.profilePor) := by
  rw [State.powerOn_insts, List.getElem?_replicate_of_lt hk]

/-- With LEN and DEAD zero, only the bit of PROFILE is left of the status word (10_state R33). -/
theorem statWord_fresh (prof : Profile) :
    statWord (Instance.fresh prof) = if prof = .A then 0#32 else 0x00020000#32 := by
  cases prof <;> rfl

/-- Settles O7: RESET puts the fresh instance back where it already is, and RDSTAT reads its status word. -/
theorem powerOnLeavesEveryInstanceFresh : Obligations.PowerOnLeavesEveryInstanceFresh := by
  intro p k hlt
  have hk := getElem?_insts_powerOn hlt
  refine ⟨by simp, hk, ?_, ?_⟩
  · exact (exec_reset_of_getElem? hk p.profilePor).trans (onlyInst_eq_onlyReply hk _)
  · rw [exec_rdstat_of_getElem? hk, statWord_fresh]

/-! ### Admission -/

/-- No context refuses an instruction that names no instance, such as a codec command (20_memory R53). -/
theorem issueRefusal_of_namedInst_eq_none {i : Instr} (hi : i.namedInst = none) (ctx : Context) :
    issueRefusal ctx i = none := by
  rw [issueRefusal, hi]

section named
variable {ctx : Context} {i : Instr} {k : Nat} (hi : i.namedInst = some k)
include hi

/-- The refusals of an instance's command, the one for overlap first. -/
theorem issueRefusal_of_namedInst_eq_some :
    issueRefusal ctx i =
      if k ∈ ctx.inFlight then some (.overlappingIssue k)
      else if k ∈ ctx.handling then some (.reentrantIssue k) else none := by
  simp [issueRefusal, hi]

theorem issueRefusal_of_inFlight (hf : k ∈ ctx.inFlight) : issueRefusal ctx i = some (.overlappingIssue k) := by
  rw [issueRefusal_of_namedInst_eq_some hi, if_pos hf]

theorem issueRefusal_of_handling (hf : k ∉ ctx.inFlight) (hh : k ∈ ctx.handling) :
    issueRefusal ctx i = some (.reentrantIssue k) := by
  rw [issueRefusal_of_namedInst_eq_some hi, if_neg hf, if_pos hh]

theorem issueRefusal_of_not_mem (hf : k ∉ ctx.inFlight) (hh : k ∉ ctx.handling) : issueRefusal ctx i = none := by
  rw [issueRefusal_of_namedInst_eq_some hi, if_neg hf, if_neg hh]

end named

/-- Settles O13: a step refuses or runs the request as `issueRefusal` says. -/
theorem overlappingAndReentrantIssueIsRefused : Obligations.OverlappingAndReentrantIssueIsRefused :=
  ⟨fun _ _ _ _ _ hp hd hi =>
    ⟨fun hf => step_of_issueRefusal hp hd (issueRefusal_of_inFlight hi hf),
      fun hf hh => step_of_issueRefusal hp hd (issueRefusal_of_handling hi hf hh),
      fun hf hh => step_of_admitted hp hd (issueRefusal_of_not_mem hi hf hh)⟩,
    fun _ iss _ _ hp hd hi => step_of_admitted hp hd (issueRefusal_of_namedInst_eq_none hi iss.ctx)⟩

/-! ### Bounded chunks -/

/-- What a live instance holds decodes INCOMPLETE, and no span of 260 bytes or more does. -/
theorem Instance.Inv.len_le {cap : Nat} {inst : Instance} (hinv : inst.Inv cap) (hlive : inst.dead = false) :
    inst.len ≤ 259 := by
  obtain ⟨H, ⟨-, hlen⟩, -, hstop⟩ := hinv.held
  rw [hlen]
  exact (decodeSpan_eq_incomplete_iff.mp (hstop hlive)).length_le

/-- Settles O51: LEN is at most 259 and at most CAP, so a chunk within either bound fits, and FEED answers the frames
of its run. -/
theorem boundedChunksNeverOverflow : Obligations.BoundedChunksNeverOverflow := by
  intro k S s inst hinv hk hlive
  have hinst := hinv.insts_inv inst (List.mem_of_getElem? hk)
  have hle := hinst.len_le hlive
  refine ⟨hle, fun hS => ?_⟩
  have hcap := hinst.len_le_cap
  have hfit : inst.len + S.length ≤ s.params.cap := by omega
  obtain ⟨H, hH, -⟩ := hinst.held
  have hlen : inst.len = H.length := hH.2
  rw [hlen] at hfit
  obtain ⟨fs, R, -, hfeed⟩ := feedRunsTheStreamToItsFixedPoint k S H s inst hk hlive hH hfit
  exact ⟨_, fs, hfeed, rfl⟩

end Sys2Proof.Machine
